-- ==== Sys2Proof/Word.lean ====
section
/-! DEFINITION. The bit vectors of RSACORE: the bus word, the bus byte, the window offset and the two register widths.

OPW is a parameter with 64 <= OPW <= 1024 (spec/00_scope.md R6), so a register is held at the largest width it can
have (1024 bits for an operand, 2048 for a result, R7) and only its low OPW or RW bits are ever used; that the bits
above them are zero is part of `State.Inv` (Sys2Proof/Safety.lean). -/

namespace Sys2Proof

/-- The 32-bit bus word and command word (20_memory.md R61, 30_encoding.md R90). -/
abbrev Word := BitVec 32

/-- One byte of a bus word (20_memory.md R64). -/
abbrev Byte := BitVec 8

/-- A byte offset of the 4 KiB window, 0x000 to 0xFFF (20_memory.md R60, R63). -/
abbrev Offset := BitVec 12

/-- An operand register at the largest OPW (10_state.md R22). -/
abbrev OpReg := BitVec 1024

/-- A result register at the largest RW (10_state.md R23). -/
abbrev ResReg := BitVec 2048

/-- The four-bit error code of STATUS.ERR (10_state.md R20, R31). -/
abbrev Code := BitVec 4

end Sys2Proof
end

