-- ==== Sys2Proof/Config.lean ====
section
/-! DEFINITION. What an RSACORE implementation fixes (OPW, BASE and what follows from them) and the two free values of
the model: who moves next, and what the entropy source draws. -/

namespace Sys2Proof

/-- The three agents whose atomic steps interleave in any order (00_scope.md R14). -/
inductive Agent where
  /-- The bus master: one transaction of its program (70_reset_and_hazards.md R215). -/
  | host
  /-- The engine: one step of the running command (60_exceptions.md R185). -/
  | engine
  /-- The reset input (70_reset_and_hazards.md R210). -/
  | reset
  deriving DecidableEq, Repr, Inhabited

namespace Config

/-- The smallest legal OPW (00_scope.md R6). -/
def minOpw : Nat := 64

/-- The largest legal OPW (00_scope.md R6). -/
def maxOpw : Nat := 1024

/-- The reference configuration, OPW = 64 (00_scope.md R6). DESIGN CHOICE: `State.reset` shows this
configuration; see notes/assumptions/1.md. -/
def refOpw : Nat := 64

/-- BASE of the configuration that `State.reset` shows. DESIGN CHOICE: the spec leaves BASE open
(20_memory.md R63, 92_eei_decisions.md D39); see notes/assumptions/2.md. -/
def refBase : Nat := 0

/-- The size of the register window in bytes, 4 KiB (20_memory.md R63). -/
def windowBytes : Nat := 0x1000

/-- The constant ID register, the bytes 'R' 'S' 'A' 'C' (10_state.md R24). -/
def idValue : Word := 0x52534143

/-- The public exponent E_FIXED (00_scope.md R8, 42_keygen.md R163). -/
def eFixed : Nat := 65537

/-- DMAX_P, the largest digit count FIND_PRIME accepts (00_scope.md R9). A count above OPW cannot fit, so the search
starts there. -/
def dmaxP (opw : Nat) : Nat := Nat.findGreatest (fun d => 10 ^ d - 1 < 2 ^ opw) opw

/-- DMAX_K, the largest digit count GEN_KEYS accepts (00_scope.md R9). -/
def dmaxK (opw : Nat) : Nat := Nat.findGreatest (fun d => (10 ^ d - 1) ^ 2 < 2 ^ opw) opw

/-- FREE VALUE: which agent moves at the model's `turn`-th step when the state's agenda names none. The order of host,
engine and reset steps is not fixed (70_reset_and_hazards.md R225, R226); see notes/assumptions/3.md. -/
opaque freeAgent : Nat → Agent

/-- FREE VALUE: what the entropy source answers to its `n`-th draw when the state's queue of draws is empty. The source
is an oracle under no law but its range (60_exceptions.md R195); see notes/assumptions/4.md. -/
opaque freeDraw : Nat → Nat

end Config

end Sys2Proof
end

