-- ==== Sys2Proof/Syntax.lean ====
section
/-! DEFINITION. The commands of RSACORE, one constructor per row of spec/opcode_table.json (30_encoding.md R91). -/

namespace Sys2Proof

/-- The eight commands. A command word has no field for an operand: the operands are always the registers OPA, OPB and
OPC (30_encoding.md R90, R93, R96), so no constructor has an argument. -/
inductive Instr where
  /-- PRIME_TEST, 40_prime.md R111. -/
  | primeTest
  /-- FIND_PRIME, 40_prime.md R113. -/
  | findPrime
  /-- GCD, 41_euclid.md R140. -/
  | gcd
  /-- SOLVE_BEZOUT, 41_euclid.md R141. -/
  | solveBezout
  /-- MOD_INVERSE, 41_euclid.md R143. -/
  | modInverse
  /-- GEN_KEYS, 42_keygen.md R160. -/
  | genKeys
  /-- ENCRYPT, 43_cipher.md R171. -/
  | encrypt
  /-- DECRYPT, 43_cipher.md R172. -/
  | decrypt
  deriving DecidableEq, Repr

end Sys2Proof
end

