-- ==== Sys2Proof/WellFormed.lean ====
section
/-! DEFINITION. What is well-formed: a command, the parameters of an implementation, a bus transaction. -/

namespace Sys2Proof

/-- Every command is well-formed: a command has no operand field that could be out of range (30_encoding.md R90). -/
def Instr.wellFormed : Instr → Bool
  | .primeTest | .findPrime | .gcd | .solveBezout | .modInverse | .genKeys | .encrypt | .decrypt => true

/-- The legal values of OPW: a multiple of 32 with 64 <= OPW <= 1024 (00_scope.md R6). -/
def WellFormed.opw (opw : Nat) : Bool :=
  decide (Config.minOpw ≤ opw) && decide (opw ≤ Config.maxOpw) && decide (opw % 32 = 0)

/-- BASE is 4 KiB aligned (20_memory.md R63). -/
def WellFormed.base (base : Nat) : Bool :=
  decide (base % Config.windowBytes = 0)

/-- A transaction is legal exactly when its size is 4 and its offset is a multiple of 4 (20_memory.md R61). -/
def WellFormed.access (off : Offset) (size : Nat) : Bool :=
  decide (size = 4) && decide (off.toNat % 4 = 0)

end Sys2Proof
end

