-- ==== Sys2Proof/Decode.lean ====
section
/-! DEFINITION. The decoder of command words, total on all 2^32 words and on any bytes, and the encoder
(30_encoding.md R90 to R92, R97, R98; byte order 20_memory.md R64). -/

namespace Sys2Proof

/-- Why a word is no command (30_encoding.md R97). -/
inductive Illegal where
  /-- A bit of RSVD, bits [31:8], is not zero. -/
  | reservedBits
  /-- RSVD is zero and OP, bits [7:0], is not 0x01 to 0x08. -/
  | unknownOpcode
  deriving DecidableEq, Repr

/-- The decoder's verdict on a word: one of the eight commands, or ILLEGAL (30_encoding.md R92). -/
inductive Verdict where
  | legal (i : Instr)
  | illegal (why : Illegal)
  deriving DecidableEq, Repr

/-- Field RSVD of a command word (30_encoding.md R90). -/
def rsvdField (w : Word) : BitVec 24 := w.extractLsb' 8 24

/-- Field OP of a command word (30_encoding.md R90). -/
def opField (w : Word) : Byte := w.extractLsb' 0 8

/-- The opcode assignment (30_encoding.md R91). -/
def decodeOp (op : Nat) : Option Instr :=
  match op with
  | 0x01 => some .primeTest
  | 0x02 => some .findPrime
  | 0x03 => some .gcd
  | 0x04 => some .solveBezout
  | 0x05 => some .modInverse
  | 0x06 => some .genKeys
  | 0x07 => some .encrypt
  | 0x08 => some .decrypt
  | _ => none

/-- `decode(w)` of 30_encoding.md R92. -/
def decode (w : Word) : Verdict :=
  if rsvdField w = 0 then
    match decodeOp (opField w).toNat with
    | some i => .legal i
    | none => .illegal .unknownOpcode
  else .illegal .reservedBits

/-- The command word of each command (30_encoding.md R91). -/
def encode : Instr → Word
  | .primeTest => 0x00000001
  | .findPrime => 0x00000002
  | .gcd => 0x00000003
  | .solveBezout => 0x00000004
  | .modInverse => 0x00000005
  | .genKeys => 0x00000006
  | .encrypt => 0x00000007
  | .decrypt => 0x00000008

/-- The four bytes of a bus word, lowest offset first: little-endian (20_memory.md R64). -/
def bytesOfWord (w : Word) : List Byte :=
  [w.extractLsb' 0 8, w.extractLsb' 8 8, w.extractLsb' 16 8, w.extractLsb' 24 8]

/-- The bus word of four bytes, the byte at the lowest offset first (20_memory.md R64). -/
def wordOfBytes (b0 b1 b2 b3 : Byte) : Word := b3 ++ b2 ++ b1 ++ b0

/-- Decoding from bytes: a command is always one whole 32-bit word (30_encoding.md R98), so fewer than four bytes give
nothing; otherwise the verdict on the first word and the bytes after it. -/
def decodeBytes : List Byte → Option (Verdict × List Byte)
  | b0 :: b1 :: b2 :: b3 :: rest => some (decode (wordOfBytes b0 b1 b2 b3), rest)
  | _ => none

/-- The command a verdict names, if any. -/
def Verdict.instr? : Verdict → Option Instr
  | .legal i => some i
  | .illegal _ => none

/-- The word whose low `nbits` bits are `w` and whose other bits are zero. -/
def tableWord (nbits w : Nat) : Word := BitVec.ofNat 32 (w % 2 ^ nbits)

/-- What the decoder reads from a command whose bits are `w`, numbered as spec/opcode_table.json numbers them: the
word's bytes are laid out in the hardware's order and decoded from there. -/
def decodeTableWord (nbits w : Nat) : Option Instr :=
  match decodeBytes (bytesOfWord (tableWord nbits w)) with
  | some (v, _) => v.instr?
  | none => none

end Sys2Proof
end

