-- ==== Sys2Proof/Machine/State.lean ====
section
/-! DEFINITION. The state of RSACORE (10_state.md R20), the parameters of the implementation it belongs to, the host
that drives it (70_reset_and_hazards.md R215) and the model's two input queues; and the state right after reset.
Plain data throughout. -/

namespace Sys2Proof.Machine

/-- The phase of the running command (10_state.md R34). -/
inductive Phase where
  /-- EXEC: the command completes at its next engine step. -/
  | exec
  /-- SAMPLE_P: FIND_PRIME's sampling, and GEN_KEYS's for its first prime. -/
  | sampleP
  /-- SAMPLE_Q: GEN_KEYS's sampling for its second prime. -/
  | sampleQ
  deriving DecidableEq, Repr

/-- The running command, the record of JOB (10_state.md R34). -/
structure Job where
  /-- The accepted CMD word. -/
  word : Word
  /-- The phase the command is in. -/
  phase : Phase
  /-- GEN_KEYS's first prime from the step that finds it until completion; 0 otherwise. -/
  psaved : Nat
  deriving DecidableEq, Repr

/-- The operand registers' names (10_state.md R22). -/
inductive OpName where
  | a | b | c
  deriving DecidableEq, Repr

/-- The result registers' names (10_state.md R23). -/
inductive ResName where
  | r0 | r1 | r2
  deriving DecidableEq, Repr

/-- What the host does in one step of its program (30_encoding.md R100, R101; 20_memory.md R60). -/
inductive HostOp where
  /-- MemRead(off, size). -/
  | rd (off : Offset) (size : Nat)
  /-- MemWrite(off, size, data). A write whose size is not 4 is refused before its data matters (20_memory.md R62), so
  `data` is the one bus word. -/
  | wr (off : Offset) (size : Nat) (data : Word)
  /-- WAIT: read STATUS until the value read has BUSY = 0. -/
  | wait
  deriving DecidableEq, Repr

/-- One completed read of the host: where it read and the word it was given. -/
structure HostRead where
  off : Offset
  data : Word
  deriving DecidableEq, Repr

/-- What can go wrong. -/
inductive Fault where
  /-- BusError(off): raised by a host transaction that is not an aligned 32-bit access (20_memory.md R62). The host
  step records it in `State.hostFault` and the host stops there; the block and its engine go on
  (70_reset_and_hazards.md R216), so `step` itself answers a next state. Safe: nothing the block does is left out. -/
  | busError (off : Offset)
  deriving DecidableEq, Repr

/-- Why the model gives an instruction no meaning. -/
inductive Refusal where
  /-- An arm of `exec` without a meaning. Every command has its meaning, so nothing raises it. Safe. -/
  | notModelled (mnemonic : String)
  deriving DecidableEq, Repr

/-- The state of the model. The twelve fields from `opa` to `job` are the complete state of the block
(10_state.md R20); the others are the implementation's parameters, the host and the model's inputs. -/
structure State where
  /-- OPA (10_state.md R22); its low OPW bits are the register. -/
  opa : OpReg
  /-- OPB (10_state.md R22). -/
  opb : OpReg
  /-- OPC (10_state.md R22). -/
  opc : OpReg
  /-- RES0 (10_state.md R23); its low RW bits are the register. -/
  res0 : ResReg
  /-- RES1 (10_state.md R23). -/
  res1 : ResReg
  /-- RES2 (10_state.md R23). -/
  res2 : ResReg
  /-- CTRL_IE (10_state.md R26). -/
  ie : Bool
  /-- STATUS_DONE (10_state.md R29). -/
  done : Bool
  /-- STATUS_OVR (10_state.md R30). -/
  ovr : Bool
  /-- STATUS_ERR (10_state.md R31). -/
  err : Code
  /-- STATUS_LASTOP (10_state.md R32). -/
  lastop : Byte
  /-- JOB (10_state.md R34). -/
  job : Option Job
  /-- OPW, the parameter of the implementation (00_scope.md R6); no step changes it. -/
  opw : Nat
  /-- BASE, the platform address of the window (20_memory.md R63); no step changes it. -/
  base : Nat
  /-- What is left of the host's program (70_reset_and_hazards.md R215). -/
  prog : List HostOp
  /-- What the host's reads returned, the latest first (20_memory.md R60). -/
  seen : List HostRead
  /-- The BusError that stopped the host, if one did (70_reset_and_hazards.md R216). -/
  hostFault : Option Fault
  /-- Who moves next, soonest first; when empty, `Config.freeAgent` decides (70_reset_and_hazards.md R225). -/
  agenda : List Agent
  /-- How many steps the model has taken, the argument of `Config.freeAgent`. -/
  turn : Nat
  /-- What the entropy source will answer, soonest first; when empty, `Config.freeDraw` answers
  (60_exceptions.md R195). -/
  draws : List Nat
  /-- How many draws were taken, the argument of `Config.freeDraw`. -/
  drawCount : Nat
  deriving DecidableEq, Repr

/-- The state right after reset (70_reset_and_hazards.md R210) of the reference configuration, with no host program
and nothing queued. -/
def State.reset : State where
  opa := 0
  opb := 0
  opc := 0
  res0 := 0
  res1 := 0
  res2 := 0
  ie := false
  done := false
  ovr := false
  err := 0
  lastop := 0
  job := none
  opw := Config.refOpw
  base := Config.refBase
  prog := []
  seen := []
  hostFault := none
  agenda := []
  turn := 0
  draws := []
  drawCount := 0

end Sys2Proof.Machine
end

