-- ==== Sys2Proof/Machine/Operands.lean ====
section
/-! DEFINITION. Operand and result assembly: how a command reads OPA, OPB and OPC, and how a result is written in
RW bits (30_encoding.md R93 to R95; `uint`, `sint`, `enc_N` of 00_scope.md R11). -/

namespace Sys2Proof.Machine

/-- NW, the number of 32-bit words of an operand register (00_scope.md R6). -/
def State.nw (s : State) : Nat := s.opw / 32

/-- RW, the width of a result register (00_scope.md R7). -/
def State.rw (s : State) : Nat := 2 * s.opw

/-- An operand register by its name. -/
def State.op (s : State) : OpName → OpReg
  | .a => s.opa
  | .b => s.opb
  | .c => s.opc

/-- A result register by its name. -/
def State.res (s : State) : ResName → ResReg
  | .r0 => s.res0
  | .r1 => s.res1
  | .r2 => s.res2

/-- `uint` of an operand register: its OPW bits read as a number in [0, 2^OPW) (30_encoding.md R94). -/
def State.uint (s : State) (r : OpName) : Nat := ((s.op r).setWidth s.opw).toNat

/-- `sint` of an operand register: its OPW bits read as two's complement (30_encoding.md R94). -/
def State.sint (s : State) (r : OpName) : Int := ((s.op r).setWidth s.opw).toInt

/-- A result as a command gives it: unsigned, or two's complement for SOLVE_BEZOUT's coefficients
(30_encoding.md R93). -/
inductive Result where
  | unsigned (v : Int)
  | signed (v : Int)
  deriving DecidableEq, Repr

/-- The result's exact value. -/
def Result.value : Result → Int
  | .unsigned v => v
  | .signed v => v

/-- Whether a result fits an `rw`-bit result register (60_exceptions.md R186). -/
def Result.fits (rw : Nat) : Result → Bool
  | .unsigned v => decide (0 ≤ v) && decide (v < 2 ^ rw)
  | .signed v => decide (-2 ^ (rw - 1) ≤ v) && decide (v < 2 ^ (rw - 1))

/-- `enc_N(v)`: the N-bit vector whose `uint` or `sint` is `v` (00_scope.md R11), in a result register. -/
def encRes (rw : Nat) (v : Int) : ResReg := (BitVec.ofInt rw v).setWidth 2048

/-- The three results of a command, in the order RES0, RES1, RES2 (30_encoding.md R93). -/
structure Results where
  r0 : Result
  r1 : Result
  r2 : Result
  deriving DecidableEq, Repr

/-- The result list of a command that gives one unsigned result; the others are written as zero
(30_encoding.md R93). -/
def Results.one (v : Int) : Results := ⟨.unsigned v, .unsigned 0, .unsigned 0⟩

/-- The result list written `-`: a completion with an error writes no result (60_exceptions.md R186). -/
def Results.unused : Results := ⟨.unsigned 0, .unsigned 0, .unsigned 0⟩

/-- `all_fit(rs)` (60_exceptions.md R186). -/
def Results.allFit (rw : Nat) (rs : Results) : Bool :=
  rs.r0.fits rw && rs.r1.fits rw && rs.r2.fits rw

end Sys2Proof.Machine
end

