-- ==== Sys2Proof/Machine/Flags.lean ====
section
/-! DEFINITION. STATUS and its fields, the error codes and the interrupt output (10_state.md R27 to R32, R37;
60_exceptions.md R181). RSACORE has no other flag (10_state.md R38). -/

namespace Sys2Proof.Machine

/-- The error codes of STATUS.ERR (60_exceptions.md R181). -/
inductive ErrCode where
  | ok | illegal | domain | arg | overflow
  deriving DecidableEq, Repr

/-- The code's number (60_exceptions.md R181). -/
def ErrCode.code : ErrCode → Code
  | .ok => 0
  | .illegal => 1
  | .domain => 2
  | .arg => 3
  | .overflow => 4

/-- STATUS.BUSY, a view of JOB (10_state.md R28). -/
def State.busy (s : State) : Bool := s.job.isSome

/-- The interrupt output `irq` (10_state.md R37). -/
def State.irq (s : State) : Bool := s.done && s.ie

/-- What a read of STATUS returns (10_state.md R27). -/
def State.statusWord (s : State) : Word :=
  0#8 ++ s.lastop ++ 0#4 ++ s.err ++ 0#5 ++ BitVec.ofBool s.ovr ++ BitVec.ofBool s.done ++ BitVec.ofBool s.busy

/-- What a read of CTRL returns (20_memory.md R71). -/
def State.ctrlWord (s : State) : Word := 0#31 ++ BitVec.ofBool s.ie

/-- What a read of CFG returns (10_state.md R25). -/
def State.cfgWord (s : State) : Word := 0#16 ++ BitVec.ofNat 16 s.nw

/-- The effect of a STATUS write: bit 1 clears DONE, bit 2 clears OVR (20_memory.md R70). -/
def State.writeStatus (s : State) (data : Word) : State :=
  { s with done := s.done && !data.getLsbD 1, ovr := s.ovr && !data.getLsbD 2 }

/-- The effect of a CTRL write: IE takes bit 0 (20_memory.md R71). -/
def State.writeCtrl (s : State) (data : Word) : State :=
  { s with ie := data.getLsbD 0 }

end Sys2Proof.Machine
end

