-- ==== Sys2Proof/Machine/Ops.lean ====
section
/-! DEFINITION. The shared operations: acceptance of a command, its completion (the one event this hardware has in the
place of an exception, 60_exceptions.md R180, R191), overrun, reset, the words of a wide register, and the two inputs
of the model (who moves next, and the entropy source). -/

namespace Sys2Proof.Machine

/-- What a step of the machine answers. -/
abbrev StepResult := Host.Outcome State Fault Refusal

/-! ### Words of a wide register -/

/-- `X[32*i+31 : 32*i]` (20_memory.md R65). -/
def getWord {n : Nat} (x : BitVec n) (i : Nat) : Word := x.extractLsb' (32 * i) 32

/-- `X[32*i+31 : 32*i] <- w`; no other bit of X changes (20_memory.md R68). -/
def setWord {n : Nat} (x : BitVec n) (i : Nat) (w : Word) : BitVec n :=
  (x &&& ~~~((BitVec.allOnes 32).setWidth n <<< (32 * i))) ||| (w.setWidth n <<< (32 * i))

/-- Writes an operand register by its name. -/
def State.setOp (s : State) (r : OpName) (v : OpReg) : State :=
  match r with
  | .a => { s with opa := v }
  | .b => { s with opb := v }
  | .c => { s with opc := v }

/-! ### The life of a command -/

/-- The phase a word starts in: SAMPLE_P for FIND_PRIME and GEN_KEYS, EXEC for every other word
(10_state.md R34). -/
def startPhase (w : Word) : Phase :=
  match decode w with
  | .legal .findPrime => .sampleP
  | .legal .genKeys => .sampleP
  | _ => .exec

/-- Acceptance of a command word, legal or not (60_exceptions.md R184). -/
def State.acceptCmd (s : State) (w : Word) : State :=
  { s with
    job := some { word := w, phase := startPhase w, psaved := 0 }
    done := false
    err := 0
    lastop := opField w }

/-- Overrun: the write is dropped and OVR is set (60_exceptions.md R189). -/
def State.overrun (s : State) : State := { s with ovr := true }

/-- The code a completion records: ERR_OK becomes ERR_OVERFLOW when a result does not fit its register
(60_exceptions.md R186). -/
def completionCode (rw : Nat) (err : ErrCode) (rs : Results) : ErrCode :=
  if err = .ok ∧ rs.allFit rw = false then .overflow else err

/-- A result register after a completion with code `code`: written only on success (60_exceptions.md R186). -/
def completedReg (rw : Nat) (code : ErrCode) (old : ResReg) (r : Result) : ResReg :=
  if code = .ok then encRes rw r.value else old

/-- `complete(err, rs)` (60_exceptions.md R186): the fit check, all three results or none of them, the code, DONE, and
the end of the command. This is what the block does in the place of taking an exception (R191). -/
def State.complete (s : State) (err : ErrCode) (rs : Results) : State :=
  let code := completionCode s.rw err rs
  { s with
    res0 := completedReg s.rw code s.res0 rs.r0
    res1 := completedReg s.rw code s.res1 rs.r1
    res2 := completedReg s.rw code s.res2 rs.r2
    err := code.code
    done := true
    job := none }

/-- The effect of the reset agent on the block (70_reset_and_hazards.md R210): every element of the state tuple takes
its reset value. The parameters, the host and the inputs are not the block's. -/
def State.resetBlock (s : State) : State :=
  { s with
    opa := 0, opb := 0, opc := 0
    res0 := 0, res1 := 0, res2 := 0
    ie := false, done := false, ovr := false
    err := 0, lastop := 0, job := none }

/-! ### The entropy source (60_exceptions.md R195) -/

/-- A raw value brought into the range the draw asks for: a value of the range is itself, any other is folded in. -/
def foldInto (lo hi c : Nat) : Nat :=
  if lo ≤ c ∧ c ≤ hi then c else lo + c % (hi - lo + 1)

/-- `draw(lo, hi)`: the next queued value, or the free value when none is queued (60_exceptions.md R195). -/
def State.drawn (s : State) (lo hi : Nat) : Nat :=
  foldInto lo hi (s.draws.headD (Config.freeDraw s.drawCount))

/-- The inputs after one draw. -/
def State.afterDraw (s : State) : State :=
  { s with draws := s.draws.tail, drawCount := s.drawCount + 1 }

/-! ### Who moves next (00_scope.md R14, 70_reset_and_hazards.md R225) -/

/-- The agent that takes this step: the agenda's first, or the free choice when it is empty. -/
def State.chosen (s : State) : Agent := s.agenda.headD (Config.freeAgent s.turn)

/-- The state in which the chosen agent moves. -/
def State.advance (s : State) : State :=
  { s with agenda := s.agenda.tail, turn := s.turn + 1 }

end Sys2Proof.Machine
end

