-- ==== Sys2Proof/Machine/Cipher.lean ====
section
/-! DEFINITION. The Cipher commands: ENCRYPT and DECRYPT (43_cipher.md R170 to R176). -/

namespace Sys2Proof.Machine

/-- The loop of `modexp` (43_cipher.md R170) with `r` and `x` its variables. The exponent is halved in each round, so as
many rounds as its first value are always enough and the first argument never runs out. -/
def modexpLoop : Nat → Nat → Nat → Nat → Nat → Nat
  | 0, r, _, _, _ => r
  | fuel + 1, r, x, k, n =>
    if k = 0 then r
    else modexpLoop fuel (if k % 2 = 1 then r * x % n else r) (x * x % n) (k / 2) n

/-- `modexp(b, k, n)` by repeated squaring (43_cipher.md R170). -/
def modexp (b k n : Nat) : Nat := modexpLoop k (1 % n) (b % n) k n

/-- The step ENCRYPT and DECRYPT share (43_cipher.md R175): `OPA ^ OPC mod OPB`, or ERR_ARG when OPB is 0 (R173). -/
def State.cipherStep (s : State) : State :=
  if s.uint .b = 0 then s.complete .arg .unused
  else s.complete .ok (.one (modexp (s.uint .a) (s.uint .c) (s.uint .b)))

/-- ENCRYPT (43_cipher.md R171). -/
def execEncrypt (s : State) : StepResult := .next s.cipherStep

/-- DECRYPT (43_cipher.md R172). -/
def execDecrypt (s : State) : StepResult := .next s.cipherStep

end Sys2Proof.Machine
end

