-- ==== Sys2Proof/Machine/Euclid.lean ====
section
/-! DEFINITION. The ExtendedEuclid commands: GCD, SOLVE_BEZOUT and MOD_INVERSE (41_euclid.md R130 to R145). -/

namespace Sys2Proof.Machine

/-- The terms of the trace after `u, v`: each next remainder, stopping before the first zero (41_euclid.md R130). The
remainders fall, so `v` rounds are always enough and the first argument never runs out. -/
def traceLoop : Nat → Nat → Nat → List Nat
  | 0, _, _ => []
  | fuel + 1, u, v => if u % v = 0 then [] else u % v :: traceLoop fuel v (u % v)

/-- The trace of an ordered pair `u >= v` (41_euclid.md R130). -/
def orderedTrace (u v : Nat) : List Nat :=
  if v = 0 then [u] else u :: v :: traceLoop v u v

/-- `trace(x, y)`: the terms, and whether the operands were swapped (41_euclid.md R130). -/
def trace (x y : Nat) : List Nat × Bool :=
  if x < y then (orderedTrace y x, true) else (orderedTrace x y, false)

/-- `last(T)` (41_euclid.md R131). -/
def lastTerm (t : List Nat) : Nat := t.getLastD 0

/-- The walk back through the trace (41_euclid.md R133, R134), on the trace read from its end: with `tn, ti, tp` the
terms T[i+1], T[i], T[i-1], the pair (al, be) becomes (be, al - be * q). -/
def backSub : List Nat → Int × Int → Int × Int
  | tn :: ti :: tp :: rest, (al, be) =>
    backSub (ti :: tp :: rest) (be, al - be * (((tp : Int) - (tn : Int)) / (ti : Int)))
  | _, ab => ab

/-- The pair (A, B) with g = A*t0 + B*t1 (41_euclid.md R133). -/
def gcdPair (t : List Nat) : Int × Int :=
  match t with
  | [_] => (1, 0)
  | _ => backSub t.reverse (0, 1)

/-- `bezout(x, y, t)`; `none` is DOMAIN (41_euclid.md R133). -/
def bezout (x y : Nat) (t : Int) : Option (Int × Int) :=
  let terms := (trace x y).1
  let g : Int := lastTerm terms
  if g = 0 then
    if t = 0 then some (0, 0) else none
  else if t % g ≠ 0 then none
  else
    let a := (gcdPair terms).1 * (t / g)
    let b := (gcdPair terms).2 * (t / g)
    some (if (trace x y).2 then (b, a) else (a, b))

/-- `norm(d, phi)` (41_euclid.md R138). -/
def norm (d : Int) (phi : Nat) : Int :=
  if d > 0 then d else d + ((-d) / (phi : Int) + 1) * (phi : Int)

/-- GCD (41_euclid.md R140). -/
def execGcd (s : State) : StepResult :=
  .next (s.complete .ok (.one (lastTerm (trace (s.uint .a) (s.uint .b)).1)))

/-- SOLVE_BEZOUT (41_euclid.md R141); the width check is the completion's. -/
def execSolveBezout (s : State) : StepResult :=
  match bezout (s.uint .a) (s.uint .b) (s.sint .c) with
  | none => .next (s.complete .domain .unused)
  | some (a, b) => .next (s.complete .ok ⟨.signed a, .signed b, .unsigned 0⟩)

/-- MOD_INVERSE (41_euclid.md R143). -/
def execModInverse (s : State) : StepResult :=
  match bezout (s.uint .a) (s.uint .b) 1 with
  | none => .next (s.complete .domain .unused)
  | some (d, _) => .next (s.complete .ok (.one (norm d (s.uint .b))))

end Sys2Proof.Machine
end

