-- ==== Sys2Proof/Machine/Prime.lean ====
section
/-! DEFINITION. The PrimeFinder commands: PRIME_TEST and FIND_PRIME (40_prime.md R110 to R119). -/

namespace Sys2Proof.Machine

/-- The sweep of 40_prime.md R110 from the odd divisor `i` on: while i * i <= p, an exact division rejects. Each round
raises `i` by 2, so `p` rounds are always enough and the first argument never runs out. -/
def sweep : Nat → Nat → Nat → Bool
  | 0, _, _ => true
  | fuel + 1, i, p =>
    if i * i ≤ p then
      if p % i = 0 then false else sweep fuel (i + 2) p
    else true

/-- `accept(p)`, the trial-division acceptance test (40_prime.md R110). -/
def accept (p : Nat) : Bool :=
  if p = 1 ∨ p % 2 = 0 then false else sweep p 3 p

/-- `lo(d)`, the least number of `d` digits (40_prime.md R112). -/
def sampleLo (d : Nat) : Nat := 10 ^ (d - 1)

/-- `hi(d)`, the greatest number of `d` digits (40_prime.md R112). -/
def sampleHi (d : Nat) : Nat := 10 ^ d - 1

/-- `digits_ok_P(d)` (40_prime.md R114). A count above OPW never fits; it is refused before the power is computed. -/
def digitsOkP (opw d : Nat) : Bool :=
  decide (1 ≤ d) && decide (d ≤ opw) && decide (10 ^ d - 1 < 2 ^ opw)

/-- The draw of a sampling step for `d` digits (40_prime.md R112). -/
def State.candidate (s : State) (d : Nat) : Nat := s.drawn (sampleLo d) (sampleHi d)

/-- PRIME_TEST (40_prime.md R111). -/
def execPrimeTest (s : State) : StepResult :=
  .next (s.complete .ok (.one (if accept (s.uint .a) then 1 else 0)))

/-- FIND_PRIME, one engine step (40_prime.md R113). -/
def execFindPrime (s : State) : StepResult :=
  let d := s.uint .a
  if digitsOkP s.opw d then
    let c := s.candidate d
    if accept c then .next (s.afterDraw.complete .ok (.one c)) else .next s.afterDraw
  else .next (s.complete .arg .unused)

end Sys2Proof.Machine
end

