-- ==== Sys2Proof/Machine/KeyGen.lean ====
section
/-! DEFINITION. The KeyGenerator command GEN_KEYS (42_keygen.md R160 to R168). -/

namespace Sys2Proof.Machine

/-- `digits_ok_K(d)` (42_keygen.md R161). A count above OPW never fits; it is refused before the power is computed. -/
def digitsOkK (opw d : Nat) : Bool :=
  decide (1 ≤ d) && decide (d ≤ opw) && decide ((10 ^ d - 1) ^ 2 < 2 ^ opw)

/-- `keygen_final(p, q)` (42_keygen.md R162). -/
def State.keygenFinal (s : State) (p q : Nat) : State :=
  let phi := (p - 1) * (q - 1)
  match bezout Config.eFixed phi 1 with
  | none => s.complete .domain .unused
  | some (d0, _) =>
    s.complete .ok ⟨.unsigned ((p * q : Nat) : Int), .unsigned (Config.eFixed : Int), .unsigned (norm d0 phi)⟩

/-- JOB after the first prime is found (42_keygen.md R160). -/
def State.savePrime (s : State) (p : Nat) : State :=
  { s with job := s.job.map fun j => { j with phase := .sampleQ, psaved := p } }

/-- The engine step in phase SAMPLE_P (42_keygen.md R160). -/
def State.genKeysP (s : State) : State :=
  let d := s.uint .a
  if digitsOkK s.opw d then
    let c := s.candidate d
    if accept c then s.afterDraw.savePrime c else s.afterDraw
  else s.complete .arg .unused

/-- The engine step in phase SAMPLE_Q, `p` being JOB.psaved (42_keygen.md R160). -/
def State.genKeysQ (s : State) (p : Nat) : State :=
  let c := s.candidate (s.uint .a)
  if accept c then s.afterDraw.keygenFinal p c else s.afterDraw

/-- JOB.psaved when the command is in phase SAMPLE_Q. -/
def State.savedPrime (s : State) : Option Nat :=
  s.job.bind fun j => if j.phase = .sampleQ then some j.psaved else none

/-- GEN_KEYS, one engine step (42_keygen.md R160). -/
def execGenKeys (s : State) : StepResult :=
  match s.savedPrime with
  | some p => .next (s.genKeysQ p)
  | none => .next s.genKeysP

end Sys2Proof.Machine
end

