-- ==== Sys2Proof/Machine/Dispatch.lean ====
section
/-! DEFINITION. One engine step of a legal command, by command (60_exceptions.md R185). -/

namespace Sys2Proof.Machine

-- One engine step of the command `i` (60_exceptions.md R185).
def exec (i : Instr) (s : State) : Host.Outcome State Fault Refusal :=
  match i with
  | .primeTest => Sys2Proof.Machine.execPrimeTest s
  | .findPrime => Sys2Proof.Machine.execFindPrime s
  | .gcd => Sys2Proof.Machine.execGcd s
  | .solveBezout => Sys2Proof.Machine.execSolveBezout s
  | .modInverse => Sys2Proof.Machine.execModInverse s
  | .genKeys => Sys2Proof.Machine.execGenKeys s
  | .encrypt => Sys2Proof.Machine.execEncrypt s
  | .decrypt => Sys2Proof.Machine.execDecrypt s

end Sys2Proof.Machine
end

