-- ==== Sys2Proof/Machine/Window.lean ====
section
/-! DEFINITION. The register window: the address map and what a legal read or write of each offset does
(20_memory.md R63 to R73). -/

namespace Sys2Proof.Machine

/-- What stands at an aligned offset of the window (20_memory.md R66). -/
inductive Loc where
  | id | cfg | ctrl | status | cmd
  /-- Word `i` of an operand register, i < NW. -/
  | op (r : OpName) (i : Nat)
  /-- Word `i` of a result register, i < 2 NW. -/
  | res (r : ResName) (i : Nat)
  /-- RAZ/WI (20_memory.md R67). -/
  | reserved
  deriving DecidableEq, Repr

/-- Word `i` of an operand window; the words from NW on are reserved (20_memory.md R67). -/
def Loc.opWord (nw : Nat) (r : OpName) (i : Nat) : Loc := if i < nw then .op r i else .reserved

/-- Word `i` of a result window; the words from 2 NW on are reserved (20_memory.md R67). -/
def Loc.resWord (nw : Nat) (r : ResName) (i : Nat) : Loc := if i < 2 * nw then .res r i else .reserved

/-- The address map by window (`page`, 0x100 bytes each) and word of the window (20_memory.md R66, R67). -/
def locateAt (nw page i : Nat) : Loc :=
  match page with
  | 0 =>
    match i with
    | 0 => .id
    | 1 => .cfg
    | 2 => .ctrl
    | 3 => .status
    | 4 => .cmd
    | _ => .reserved
  | 1 => .opWord nw .a i
  | 2 => .opWord nw .b i
  | 3 => .opWord nw .c i
  | 4 => .resWord nw .r0 i
  | 5 => .resWord nw .r1 i
  | 6 => .resWord nw .r2 i
  | _ => .reserved

/-- The address map of the window (20_memory.md R66, R67). -/
def locate (nw : Nat) (off : Offset) : Loc := locateAt nw (off.toNat / 0x100) (off.toNat % 0x100 / 4)

/-- The word a legal read of an offset returns; a read has no side effect (20_memory.md R66 to R73). -/
def State.readWord (s : State) (off : Offset) : Word :=
  match locate s.nw off with
  | .id => Config.idValue
  | .cfg => s.cfgWord
  | .ctrl => s.ctrlWord
  | .status => s.statusWord
  | .cmd => 0
  | .op r i => getWord (s.op r) i
  | .res r i => getWord (s.res r) i
  | .reserved => 0

/-- The effect of a legal write (20_memory.md R67 to R72; 60_exceptions.md R184, R189). -/
def State.writeWord (s : State) (off : Offset) (data : Word) : State :=
  match locate s.nw off with
  | .ctrl => s.writeCtrl data
  | .status => s.writeStatus data
  | .cmd => if s.busy then s.overrun else s.acceptCmd data
  | .op r i => if s.busy then s.overrun else s.setOp r (setWord (s.op r) i data)
  | .id | .cfg | .res _ _ | .reserved => s

/-- The platform address of an offset of the window (20_memory.md R63). -/
def State.platformAddr (s : State) (off : Offset) : Nat := s.base + off.toNat

/-- The offset that a platform address selects, decoded on bits [11:0], if it lies in the window (20_memory.md R63). -/
def State.offsetAt (s : State) (addr : Nat) : Option Offset :=
  if s.base ≤ addr ∧ addr < s.base + Config.windowBytes then some (BitVec.ofNat 12 addr) else none

end Sys2Proof.Machine
end

