-- ==== Sys2Proof/Machine/HostProgram.lean ====
section
/-! DEFINITION. The host: the notation its programs are written in (30_encoding.md R100, R101) and one step of it
(70_reset_and_hazards.md R215, R216). -/

namespace Sys2Proof.Machine

/-- A line of a host program: a transaction or a pseudo-operation (30_encoding.md R100, R101). -/
inductive HostLine where
  /-- `WR off, data`. -/
  | wr (off : Offset) (data : Word)
  /-- `RD off`. -/
  | rd (off : Offset)
  /-- `WROP X, value`. -/
  | wrop (r : OpName) (value : Int)
  /-- `START mnemonic`. -/
  | start (i : Instr)
  /-- `WAIT`. -/
  | wait
  /-- `RDRES Rk`. -/
  | rdres (r : ResName)
  /-- `ACK`. -/
  | ack
  deriving DecidableEq, Repr

/-- The offset of CMD (20_memory.md R66). -/
def cmdOffset : Offset := 0x010

/-- The offset of STATUS (20_memory.md R66). -/
def statusOffset : Offset := 0x00C

/-- The offset of word `i` of an operand register (20_memory.md R66). -/
def opOffset (r : OpName) (i : Nat) : Offset :=
  match r with
  | .a => BitVec.ofNat 12 (0x100 + 4 * i)
  | .b => BitVec.ofNat 12 (0x200 + 4 * i)
  | .c => BitVec.ofNat 12 (0x300 + 4 * i)

/-- The offset of word `i` of a result register (20_memory.md R66). -/
def resOffset (r : ResName) (i : Nat) : Offset :=
  match r with
  | .r0 => BitVec.ofNat 12 (0x400 + 4 * i)
  | .r1 => BitVec.ofNat 12 (0x500 + 4 * i)
  | .r2 => BitVec.ofNat 12 (0x600 + 4 * i)

/-- The transactions of one line, for an implementation of operand width `opw` (30_encoding.md R101). DESIGN CHOICE: the
spec defines `enc_OPW` of a negative value from -2^(OPW-1) on only (00_scope.md R11); `WROP` of a lower value writes it
modulo 2^OPW; see notes/assumptions/23.md. -/
def HostLine.expand (opw : Nat) : HostLine → List HostOp
  | .wr off data => [.wr off 4 data]
  | .rd off => [.rd off 4]
  | .wrop r v => (List.range (opw / 32)).map fun i => .wr (opOffset r i) 4 (getWord (BitVec.ofInt opw v) i)
  | .start i => [.wr cmdOffset 4 (encode i)]
  | .wait => [.wait]
  | .rdres r => (List.range (2 * (opw / 32))).map fun i => .rd (resOffset r i) 4
  | .ack => [.wr statusOffset 4 0x00000002]

/-- The transactions of a program. -/
def assemble (opw : Nat) (lines : List HostLine) : List HostOp := lines.flatMap (HostLine.expand opw)

/-- The number that words assemble, the least significant word first (30_encoding.md R94, R101). -/
def wordsValue : List Word → Nat
  | [] => 0
  | w :: ws => w.toNat + 2 ^ 32 * wordsValue ws

/-- A BusError: the host stops at the transaction with the fault recorded, and the block is as it was
(20_memory.md R62, 70_reset_and_hazards.md R216). -/
def State.busError (s : State) (off : Offset) : State := { s with hostFault := some (.busError off) }

/-- A legal read: the host is given the word (20_memory.md R60). -/
def State.hostRead (s : State) (off : Offset) : State :=
  { s with seen := { off := off, data := s.readWord off } :: s.seen }

/-- One transaction of the host, `rest` being what is left of its program after it. -/
def State.transact (s : State) (op : HostOp) (rest : List HostOp) : State :=
  match op with
  | .rd off size =>
    if WellFormed.access off size then { s.hostRead off with prog := rest } else s.busError off
  | .wr off size data =>
    if WellFormed.access off size then { s.writeWord off data with prog := rest } else s.busError off
  | .wait =>
    if (s.readWord statusOffset).getLsbD 0 then s.hostRead statusOffset
    else { s.hostRead statusOffset with prog := rest }

/-- One step of the host agent: the next transaction of its program. A host that is stopped by a fault, or whose program
is at its end, does nothing (70_reset_and_hazards.md R215, R216). -/
def State.hostStep (s : State) : State :=
  match s.hostFault with
  | some _ => s
  | none =>
    match s.prog with
    | [] => s
    | op :: rest => s.transact op rest

end Sys2Proof.Machine
end

