-- ==== Sys2Proof/Machine/Engine.lean ====
section
/-! DEFINITION. One step of the engine agent, and one step of whichever agent moves
(60_exceptions.md R185, R187; 00_scope.md R14). -/

namespace Sys2Proof.Machine

/-- An illegal command word completes at its first engine step with ERR_ILLEGAL (60_exceptions.md R187). -/
def State.completeIllegal (s : State) : State := s.complete .illegal .unused

/-- One step of the engine agent: the running command's, selected by `decode(JOB.word)`; with no command running the
engine has no step, and nothing happens (60_exceptions.md R185). -/
def engineStep (s : State) : StepResult :=
  match s.job with
  | none => .next s
  | some j =>
    match decode j.word with
    | .legal i => exec i s
    | .illegal _ => .next s.completeIllegal

/-- One step of the agent `a` (00_scope.md R14). -/
def agentStep (a : Agent) (s : State) : StepResult :=
  match a with
  | .host => .next s.hostStep
  | .engine => engineStep s
  | .reset => .next s.resetBlock

/-- The state in which the word `w` has just been accepted and the engine moves next. -/
def State.withCommand (s : State) (w : Word) : State :=
  { s.acceptCmd w with agenda := .engine :: s.agenda }

end Sys2Proof.Machine
end

