-- ==== Sys2Proof/Machine/Step.lean ====
section
/-! DEFINITION. One step of the model: the chosen agent moves (00_scope.md R14, 70_reset_and_hazards.md R225). -/

namespace Sys2Proof.Machine

/-- One step: the agent that the agenda (or the free choice) names takes its step. -/
def step (s : State) : Host.Outcome State Fault Refusal := agentStep s.chosen s.advance

/-- The state in which the command whose bits are `w` has been accepted and the engine moves next, so that the very next
step runs it. Commands are not fetched (20_memory.md R78): the word stands where acceptance puts it, in JOB
(60_exceptions.md R184); see notes/assumptions/8.md. -/
def State.withFetchWord (s : State) (nbits w : Nat) : State := s.withCommand (tableWord nbits w)

end Sys2Proof.Machine
end

