-- ==== Sys2Proof/Safety.lean ====
section
/-! DEFINITION. What claims about RSACORE are stated with: the invariant of its states, its infinite runs, and the two
fairness assumptions the spec names (ENGINE_FAIR, ENTROPY_FAIR). -/

namespace Sys2Proof.Machine

/-- The implementation's parameters are legal (00_scope.md R6, 20_memory.md R63). -/
abbrev State.LegalConfig (s : State) : Prop := WellFormed.opw s.opw = true ∧ WellFormed.base s.base = true

/-- Every register holds nothing above its width (00_scope.md R6, R7; 10_state.md R22, R23). -/
abbrev State.RegsFit (s : State) : Prop :=
  s.opa.toNat < 2 ^ s.opw ∧ s.opb.toNat < 2 ^ s.opw ∧ s.opc.toNat < 2 ^ s.opw ∧
  s.res0.toNat < 2 ^ s.rw ∧ s.res1.toNat < 2 ^ s.rw ∧ s.res2.toNat < 2 ^ s.rw

/-- STATUS.ERR holds one of the five codes (60_exceptions.md R181). -/
abbrev State.ErrLegal (s : State) : Prop := s.err.toNat ≤ 4

/-- While a command runs, DONE and ERR read 0 (10_state.md R29, R31). -/
abbrev State.BusyClear (s : State) : Prop := s.busy = true → s.done = false ∧ s.err = 0

/-- The phase and psaved of a job are those of its word (10_state.md R34, 42_keygen.md R160): EXEC for every word but
FIND_PRIME and GEN_KEYS; SAMPLE_Q only for GEN_KEYS, with an accepted draw of a legal digit count in psaved. -/
def State.phaseOk (s : State) (j : Job) : Bool :=
  match decode j.word with
  | .legal .findPrime => decide (j.phase = .sampleP) && decide (j.psaved = 0)
  | .legal .genKeys =>
    match j.phase with
    | .exec => false
    | .sampleP => decide (j.psaved = 0)
    | .sampleQ =>
      digitsOkK s.opw (s.uint .a) && decide (sampleLo (s.uint .a) ≤ j.psaved) &&
        decide (j.psaved ≤ sampleHi (s.uint .a)) && accept j.psaved
  | _ => decide (j.phase = .exec) && decide (j.psaved = 0)

/-- JOB is coherent: its phase is right and LASTOP holds its opcode field (10_state.md R32, R34). -/
def State.jobOk (s : State) : Bool :=
  match s.job with
  | none => true
  | some j => decide (s.lastop = opField j.word) && s.phaseOk j

/-- The invariant of RSACORE's states. -/
abbrev State.Inv (s : State) : Prop :=
  s.LegalConfig ∧ s.RegsFit ∧ s.ErrLegal ∧ s.BusyClear ∧ s.jobOk = true

/-- An infinite run of the model. -/
def IsRun (σ : Nat → State) : Prop := ∀ n, step (σ n) = .next (σ (n + 1))

/-- ENGINE_FAIR (70_reset_and_hazards.md R225): if a command runs in every state from some point on, the engine takes a
step infinitely often. -/
def EngineFair (σ : Nat → State) : Prop :=
  ∀ n, (∀ m, n ≤ m → (σ m).busy = true) → ∀ m, ∃ k, m ≤ k ∧ (σ k).chosen = .engine

/-- The running command draws in an engine step of this state: a FIND_PRIME or a GEN_KEYS in SAMPLE_P whose digit count
is legal, or a GEN_KEYS in SAMPLE_Q (40_prime.md R113, 42_keygen.md R160). -/
def State.samples (s : State) : Bool :=
  match s.job with
  | none => false
  | some j =>
    match decode j.word with
    | .legal .findPrime => digitsOkP s.opw (s.uint .a)
    | .legal .genKeys => decide (j.phase = .sampleQ) || digitsOkK s.opw (s.uint .a)
    | _ => false

/-- ENTROPY_FAIR (40_prime.md R117): every infinite sequence of draws eventually contains an accepted value. -/
def EntropyFair (σ : Nat → State) : Prop :=
  ∀ n, (∀ m, ∃ k, m ≤ k ∧ (σ k).chosen = .engine ∧ (σ k).samples = true) →
    ∃ k, n ≤ k ∧ (σ k).chosen = .engine ∧ (σ k).samples = true ∧ accept ((σ k).candidate ((σ k).uint .a)) = true

end Sys2Proof.Machine
end

