-- ==== Sys2Proof/Certificates/Slice0/Obligations.lean ====
section
/-! DEFINITION. The statements about RSACORE that the provers are given. Each docstring names the rules of spec/ it
formalises; `notes/assumptions` names every choice of the model a statement mentions. -/

open Sys2Proof Sys2Proof.Machine

/-! ### Encoding -/

/-- 30_encoding.md R91, R92: the legal command words are exactly the eight of the table, every other word is illegal,
and the decoder says so of all 2^32 words. -/
def Obligations.DecodeSelectsExactlyTheEightWords : Prop :=
  (∀ w : Word,
    (∀ i : Instr, decode w = .legal i ↔ w = encode i) ∧
    ((∃ i : Instr, decode w = .legal i) ↔
      w.extractLsb' 8 24 = 0 ∧ 1 ≤ (w.extractLsb' 0 8).toNat ∧ (w.extractLsb' 0 8).toNat ≤ 8) ∧
    ((∃ i : Instr, decode w = .legal i) ∨ ∃ r : Illegal, decode w = .illegal r)) ∧
  encode .primeTest = 0x00000001 ∧ encode .findPrime = 0x00000002 ∧ encode .gcd = 0x00000003 ∧
  encode .solveBezout = 0x00000004 ∧ encode .modInverse = 0x00000005 ∧ encode .genKeys = 0x00000006 ∧
  encode .encrypt = 0x00000007 ∧ encode .decrypt = 0x00000008

/-- 30_encoding.md R91, R97 and 95_test_vectors.md V-REG-7 to V-REG-10, on written-out words: OP in bits [7:0], RSVD in
bits [31:8]. -/
def Obligations.WrittenOutWordsDecode : Prop :=
  decode 0b00000000000000000000000000000001#32 = .legal .primeTest ∧
  decode 0b00000000000000000000000000000010#32 = .legal .findPrime ∧
  decode 0b00000000000000000000000000000101#32 = .legal .modInverse ∧
  decode 0b00000000000000000000000000000110#32 = .legal .genKeys ∧
  decode 0b00000000000000000000000000001000#32 = .legal .decrypt ∧
  decode 0x00000000#32 = .illegal .unknownOpcode ∧
  decode 0x00000009#32 = .illegal .unknownOpcode ∧
  decode 0x00000101#32 = .illegal .reservedBits ∧
  decode 0xFFFFFFFF#32 = .illegal .reservedBits

/-- Decoding and encoding agree on byte streams: bytes decode to a command exactly when they begin with that command's
word, laid out little-endian (20_memory.md R64), and one whole word is taken (30_encoding.md R98). -/
def Obligations.ByteDecodeAgreesWithEncode : Prop :=
  ∀ (bytes rest : List Byte) (i : Instr), i.wellFormed = true →
    (decodeBytes bytes = some (.legal i, rest) ↔ bytes = bytesOfWord (encode i) ++ rest)

/-! ### Reset -/

/-- 70_reset_and_hazards.md R210, R211: the reset agent may move in every state; its one step puts every element of the
block's state to the table's value and ends a running command without a completion. That the host, the parameters and the
inputs are untouched is the model's (notes/assumptions/18.md), and so is who moves (3.md). -/
def Obligations.ResetStepClearsTheBlock : Prop :=
  ∀ s : State, s.LegalConfig → s.chosen = .reset →
    ∃ t : State,
      step s = .next t ∧
      t = { s.advance with
        opa := 0, opb := 0, opc := 0, res0 := 0, res1 := 0, res2 := 0, ie := false, done := false, ovr := false
        err := 0, lastop := 0, job := none } ∧
      t.readWord 0x000 = 0x52534143 ∧ t.readWord 0x004 = BitVec.ofNat 32 (s.opw / 32) ∧
      t.readWord 0x008 = 0 ∧ t.readWord 0x00C = 0 ∧ t.busy = false ∧ t.irq = false

/-- 70_reset_and_hazards.md R210, R214 and 10_state.md R41, for the model's initial state: every element of the block's
state is at its reset value. -/
def Obligations.ResetStateHoldsTheResetValues : Prop :=
  State.reset.opa = 0 ∧ State.reset.opb = 0 ∧ State.reset.opc = 0 ∧
  State.reset.res0 = 0 ∧ State.reset.res1 = 0 ∧ State.reset.res2 = 0 ∧
  State.reset.ie = false ∧ State.reset.done = false ∧ State.reset.ovr = false ∧
  State.reset.err = 0 ∧ State.reset.lastop = 0 ∧ State.reset.job = none ∧
  State.reset.busy = false ∧ State.reset.irq = false ∧
  State.reset.readWord 0x000 = 0x52534143 ∧ State.reset.readWord 0x00C = 0

/-- The initial state meets the invariant. -/
def Obligations.ResetStateMeetsTheInvariant : Prop := State.reset.Inv

/-! ### The register window -/

/-- 20_memory.md R65: word `i` of a wide register stands at its window's offset plus 4 * i, the least significant word
first, and the sign bit of a signed value (operand OPC, results RES0 and RES1) is bit 31 of its highest word. -/
def Obligations.WideRegistersAreReadWordByWord : Prop :=
  ∀ s : State, s.LegalConfig →
    (∀ i : Nat, i < s.nw →
      s.readWord (BitVec.ofNat 12 (0x100 + 4 * i)) = s.opa.extractLsb' (32 * i) 32 ∧
      s.readWord (BitVec.ofNat 12 (0x200 + 4 * i)) = s.opb.extractLsb' (32 * i) 32 ∧
      s.readWord (BitVec.ofNat 12 (0x300 + 4 * i)) = s.opc.extractLsb' (32 * i) 32) ∧
    (∀ i : Nat, i < 2 * s.nw →
      s.readWord (BitVec.ofNat 12 (0x400 + 4 * i)) = s.res0.extractLsb' (32 * i) 32 ∧
      s.readWord (BitVec.ofNat 12 (0x500 + 4 * i)) = s.res1.extractLsb' (32 * i) 32 ∧
      s.readWord (BitVec.ofNat 12 (0x600 + 4 * i)) = s.res2.extractLsb' (32 * i) 32) ∧
    (s.sint .c < 0 ↔ (s.readWord (BitVec.ofNat 12 (0x300 + 4 * (s.nw - 1)))).getLsbD 31 = true) ∧
    ((s.res0.setWidth s.rw).toInt < 0 ↔
      (s.readWord (BitVec.ofNat 12 (0x400 + 4 * (2 * s.nw - 1)))).getLsbD 31 = true) ∧
    ((s.res1.setWidth s.rw).toInt < 0 ↔
      (s.readWord (BitVec.ofNat 12 (0x500 + 4 * (2 * s.nw - 1)))).getLsbD 31 = true)

/-- 30_encoding.md R94: an operand is the number its words assemble; as a signed number it is that less 2^OPW when its
top bit is set. -/
def Obligations.OperandsAssembleFromTheirWords : Prop :=
  ∀ s : State, s.LegalConfig →
    s.uint .a = wordsValue ((List.range s.nw).map fun i => s.readWord (BitVec.ofNat 12 (0x100 + 4 * i))) ∧
    s.uint .b = wordsValue ((List.range s.nw).map fun i => s.readWord (BitVec.ofNat 12 (0x200 + 4 * i))) ∧
    s.uint .c = wordsValue ((List.range s.nw).map fun i => s.readWord (BitVec.ofNat 12 (0x300 + 4 * i))) ∧
    s.sint .c = (s.uint .c : Int) - 2 ^ s.opw * (if s.opc.getLsbD (s.opw - 1) then 1 else 0) ∧
    s.uint .a < 2 ^ s.opw ∧ s.uint .b < 2 ^ s.opw ∧ s.uint .c < 2 ^ s.opw ∧
    -2 ^ (s.opw - 1) ≤ s.sint .c ∧ s.sint .c < 2 ^ (s.opw - 1)

/-- 20_memory.md R67: reserved offsets read as zero and ignore writes, whether or not a command runs, with a normal
response: the host goes on, and no bit of the block changes. -/
def Obligations.ReservedOffsetsReadZeroIgnoreWrites : Prop :=
  ∀ (s : State) (off : Offset) (data : Word) (rest : List HostOp),
    s.hostFault = none → off.toNat % 4 = 0 →
    ((0x014 ≤ off.toNat ∧ off.toNat ≤ 0x0FF) ∨ (0x700 ≤ off.toNat ∧ off.toNat ≤ 0xFFF) ∨
      (0x100 ≤ off.toNat ∧ off.toNat ≤ 0x3FF ∧ s.nw ≤ off.toNat % 0x100 / 4) ∨
      (0x400 ≤ off.toNat ∧ off.toNat ≤ 0x6FF ∧ 2 * s.nw ≤ off.toNat % 0x100 / 4)) →
    (s.prog = .rd off 4 :: rest → s.hostStep = { s with seen := ⟨off, 0⟩ :: s.seen, prog := rest }) ∧
    (s.prog = .wr off 4 data :: rest → s.hostStep = { s with prog := rest })

/-- 20_memory.md R68, for OPA, OPB and OPC (k = 1, 2, 3): a read returns the word, whether or not a command runs; a write
while none runs changes the word's 32 bits and nothing else; a write while one runs is dropped and sets OVR. -/
def Obligations.OperandWordAccess : Prop :=
  ∀ (s : State) (i : Nat) (data : Word) (rest : List HostOp),
    s.LegalConfig → s.hostFault = none → i < s.nw →
    (∀ (k : Nat) (r : OpName), (k, r) ∈ [(1, OpName.a), (2, OpName.b), (3, OpName.c)] →
      let off : Offset := BitVec.ofNat 12 (0x100 * k + 4 * i)
      (s.prog = .rd off 4 :: rest →
        s.hostStep = { s with seen := ⟨off, (s.op r).extractLsb' (32 * i) 32⟩ :: s.seen, prog := rest }) ∧
      (s.prog = .wr off 4 data :: rest → s.job = none →
        ∃ v : OpReg,
          s.hostStep = { (s.setOp r v) with prog := rest } ∧
          ∀ b : Nat, b < 1024 →
            v.getLsbD b =
              if 32 * i ≤ b ∧ b < 32 * i + 32 then data.getLsbD (b - 32 * i) else (s.op r).getLsbD b) ∧
      (s.prog = .wr off 4 data :: rest → s.job ≠ none →
        s.hostStep = { s with ovr := true, prog := rest }))

/-- 20_memory.md R69: a result word is read whether or not a command runs, and a write to it is ignored. -/
def Obligations.ResultWordAccess : Prop :=
  ∀ (s : State) (i : Nat) (data : Word) (rest : List HostOp),
    s.LegalConfig → s.hostFault = none → i < 2 * s.nw →
    (∀ (k : Nat) (r : ResName), (k, r) ∈ [(4, ResName.r0), (5, ResName.r1), (6, ResName.r2)] →
      let off : Offset := BitVec.ofNat 12 (0x100 * k + 4 * i)
      (s.prog = .rd off 4 :: rest →
        s.hostStep = { s with seen := ⟨off, (s.res r).extractLsb' (32 * i) 32⟩ :: s.seen, prog := rest }) ∧
      (s.prog = .wr off 4 data :: rest → s.hostStep = { s with prog := rest }))

/-- 10_state.md R27: every bit of a STATUS read; its reserved bits read 0. -/
def Obligations.StatusReadLayout : Prop :=
  (∀ (s : State) (n : Nat), n < 32 →
    (s.readWord 0x00C).getLsbD n =
      if n = 0 then s.job.isSome
      else if n = 1 then s.done
      else if n = 2 then s.ovr
      else if 8 ≤ n ∧ n < 12 then s.err.getLsbD (n - 8)
      else if 16 ≤ n ∧ n < 24 then s.lastop.getLsbD (n - 16)
      else false) ∧
  State.reset.readWord 0x00C = 0

/-- 20_memory.md R70, R71: a STATUS write clears DONE and OVR by the bits that are 1 and nothing else; a CTRL write sets
IE to bit 0; both are accepted whether or not a command runs; a CTRL read returns IE in bit 0. -/
def Obligations.StatusAndCtrlWrites : Prop :=
  ∀ (s : State) (data : Word) (rest : List HostOp), s.hostFault = none →
    (s.prog = .wr 0x00C 4 data :: rest →
      s.hostStep = { s with
        done := if data.getLsbD 1 then false else s.done
        ovr := if data.getLsbD 2 then false else s.ovr
        prog := rest }) ∧
    (s.prog = .wr 0x008 4 data :: rest → s.hostStep = { s with ie := data.getLsbD 0, prog := rest }) ∧
    (s.prog = .rd 0x008 4 :: rest →
      s.hostStep = { s with seen := ⟨0x008, if s.ie then 1 else 0⟩ :: s.seen, prog := rest })

/-- 60_exceptions.md R184: a CMD write while no command runs is accepted, in that host step, legal word or not. -/
def Obligations.CommandWriteIsAccepted : Prop :=
  ∀ (s : State) (w : Word) (rest : List HostOp),
    s.hostFault = none → s.job = none → s.prog = .wr 0x010 4 w :: rest →
    s.hostStep = { s with
      job := some
        { word := w
          phase := if decode w = .legal .findPrime ∨ decode w = .legal .genKeys then .sampleP else .exec
          psaved := 0 }
      done := false
      err := 0
      lastop := w.extractLsb' 0 8
      prog := rest }

/-- 60_exceptions.md R189: while a command runs, a write to CMD or to an operand word changes nothing but OVR; writes to
CTRL and STATUS are not dropped. -/
def Obligations.OverrunDropsTheWrite : Prop :=
  ∀ (s : State) (off : Offset) (data : Word) (rest : List HostOp),
    s.hostFault = none → s.job ≠ none → s.prog = .wr off 4 data :: rest → off.toNat % 4 = 0 →
    ((off = 0x010 ∨ (0x100 ≤ off.toNat ∧ off.toNat ≤ 0x3FF ∧ off.toNat % 0x100 / 4 < s.nw)) →
      s.hostStep = { s with ovr := true, prog := rest }) ∧
    (off = 0x008 → s.hostStep = { s with ie := data.getLsbD 0, prog := rest }) ∧
    (off = 0x00C → s.hostStep = { s with
      done := s.done && !data.getLsbD 1, ovr := s.ovr && !data.getLsbD 2, prog := rest })

/-- 20_memory.md R72, 10_state.md R24, R25, R33: ID and CFG read as their constants and ignore writes; CMD reads 0; a CMD
write starts a command when none runs (R184) and is dropped when one does (R189). -/
def Obligations.IdCfgCmdAccess : Prop :=
  ∀ (s : State) (data : Word) (rest : List HostOp), s.LegalConfig → s.hostFault = none →
    (s.prog = .rd 0x000 4 :: rest → s.hostStep = { s with seen := ⟨0x000, 0x52534143⟩ :: s.seen, prog := rest }) ∧
    (s.prog = .rd 0x004 4 :: rest →
      s.hostStep = { s with seen := ⟨0x004, 0#16 ++ BitVec.ofNat 16 (s.opw / 32)⟩ :: s.seen, prog := rest }) ∧
    (s.prog = .rd 0x010 4 :: rest → s.hostStep = { s with seen := ⟨0x010, 0⟩ :: s.seen, prog := rest }) ∧
    (s.prog = .wr 0x000 4 data :: rest → s.hostStep = { s with prog := rest }) ∧
    (s.prog = .wr 0x004 4 data :: rest → s.hostStep = { s with prog := rest }) ∧
    (s.prog = .wr 0x010 4 data :: rest →
      (s.job = none → s.hostStep.job.map Job.word = some data) ∧
      (s.job ≠ none → s.hostStep = { s with ovr := true, prog := rest }))

/-- 20_memory.md R61, R62 and 70_reset_and_hazards.md R216: a transaction that is not an aligned 32-bit one changes
nothing of the block and stops the host with the fault recorded; every legal transaction, on every offset, in every state,
succeeds. A stopped host does nothing more, while the engine goes on: that is R216 as the model reads it
(notes/assumptions/5.md, a DESIGN CHOICE, and 6.md, DEDUCED). -/
def Obligations.OnlyIllegalTransactionsFault : Prop :=
  ∀ (s : State) (off : Offset) (size : Nat) (data : Word) (rest : List HostOp),
    (s.hostFault = none → (s.prog = .rd off size :: rest ∨ s.prog = .wr off size data :: rest) →
      (¬(size = 4 ∧ off.toNat % 4 = 0) → s.hostStep = { s with hostFault := some (.busError off) }) ∧
      (size = 4 ∧ off.toNat % 4 = 0 → s.hostStep.hostFault = none ∧ s.hostStep.prog = rest)) ∧
    (s.hostFault ≠ none → s.hostStep = s) ∧
    (s.hostFault ≠ none → s.chosen = .engine → ∀ (j : Job) (i : Instr), s.job = some j → decode j.word = .legal i →
      step s = exec i s.advance)

/-- 20_memory.md R73: a legal read changes nothing but what the host has seen, so a second read sees the same; and a
write to anything but CMD, STATUS, CTRL and the operand words changes nothing. -/
def Obligations.OnlySomeWritesHaveEffects : Prop :=
  ∀ (s : State) (off : Offset) (data : Word) (rest : List HostOp),
    s.hostFault = none → off.toNat % 4 = 0 →
    (s.prog = .rd off 4 :: rest →
      s.hostStep = { s with seen := ⟨off, s.readWord off⟩ :: s.seen, prog := rest } ∧
      ∀ o : Offset, s.hostStep.readWord o = s.readWord o) ∧
    (s.prog = .wr off 4 data :: rest →
      off ≠ 0x010 → off ≠ 0x00C → off ≠ 0x008 →
      ¬(0x100 ≤ off.toNat ∧ off.toNat ≤ 0x3FF ∧ off.toNat % 0x100 / 4 < s.nw) →
      s.hostStep = { s with prog := rest })

/-- 30_encoding.md R101, 70_reset_and_hazards.md R215: WAIT reads STATUS and ends at the first read with BUSY = 0. -/
def Obligations.WaitEndsWhenIdle : Prop :=
  ∀ (s : State) (rest : List HostOp), s.hostFault = none → s.prog = .wait :: rest →
    (s.job ≠ none → s.hostStep = { s with seen := ⟨0x00C, s.statusWord⟩ :: s.seen }) ∧
    (s.job = none → s.hostStep = { s with seen := ⟨0x00C, s.statusWord⟩ :: s.seen, prog := rest })

/-- 30_encoding.md R101: the NW transactions of `WROP X, value`, performed while no command runs, leave X holding the
value (a negative value as two's complement in OPW bits) and nothing else changed of the block. For a value below
-2^(OPW-1) the spec gives no `enc_OPW`, and that X then holds it modulo 2^OPW is the model's choice
(notes/assumptions/23.md). -/
def Obligations.WropWritesTheWholeOperand : Prop :=
  ∀ (s : State) (r : OpName) (v : Int) (rest : List HostOp),
    s.LegalConfig → s.RegsFit → s.hostFault = none → s.job = none →
    s.prog = (HostLine.wrop r v).expand s.opw ++ rest →
    ∃ x : OpReg,
      State.hostStep^[s.nw] s = { (s.setOp r x) with prog := rest } ∧ (x.toNat : Int) = v % 2 ^ s.opw

/-- 20_memory.md R63: the window is the 4 KiB from BASE on, and an address in it selects the offset in its bits
[11:0]. That BASE is a field of the state is the model's (notes/assumptions/2.md). -/
def Obligations.PlatformAddressesSelectOffsets : Prop :=
  ∀ s : State, s.LegalConfig →
    (∀ off : Offset, s.offsetAt (s.platformAddr off) = some off) ∧
    (∀ (addr : Nat) (off : Offset), s.offsetAt addr = some off → addr = s.platformAddr off) ∧
    (∀ addr : Nat, s.offsetAt addr = none ↔ addr < s.base ∨ s.base + 0x1000 ≤ addr)

/-! ### The life of a command -/

/-- 60_exceptions.md R185: when the engine moves and the running command's word decodes to a command, the step is that
command's engine step; the model's own part is that the agenda and the turn counter go on (`State.advance`,
notes/assumptions/3.md). -/
def Obligations.StepRunsTheDecodedCommand : Prop :=
  ∀ (s : State) (j : Job) (i : Instr),
    s.chosen = .engine → s.job = some j → decode j.word = .legal i → i.wellFormed = true →
    step s = exec i { s with agenda := s.agenda.tail, turn := s.turn + 1 }

/-- 60_exceptions.md R187, 30_encoding.md R97: an illegal word completes at its first engine step with ERR_ILLEGAL,
reading no operand, taking no draw and leaving the results as they were. -/
def Obligations.IllegalWordCompletes : Prop :=
  ∀ (s : State) (j : Job) (why : Illegal), s.job = some j → decode j.word = .illegal why →
    engineStep s = .next { s with err := 1, done := true, job := none }

/-- 60_exceptions.md R185, R200: with no command running the engine has no step: its turn changes nothing of the block
or the host (a stutter of the model, notes/assumptions/5.md). -/
def Obligations.IdleEngineHasNoStep : Prop :=
  ∀ s : State, s.chosen = .engine → s.job = none →
    step s = .next { s with agenda := s.agenda.tail, turn := s.turn + 1 }

/-- 60_exceptions.md R186: a completion writes all three results or none, records the code (ERR_OVERFLOW when a result
does not fit), sets DONE and ends the command, and changes nothing else. -/
def Obligations.CompletionWritesAllOrNothing : Prop :=
  ∀ (s : State) (err : ErrCode) (rs : Results),
    (err = .ok → rs.r0.fits s.rw = true ∧ rs.r1.fits s.rw = true ∧ rs.r2.fits s.rw = true →
      s.complete err rs = { s with
        res0 := (BitVec.ofInt s.rw rs.r0.value).setWidth 2048
        res1 := (BitVec.ofInt s.rw rs.r1.value).setWidth 2048
        res2 := (BitVec.ofInt s.rw rs.r2.value).setWidth 2048
        err := 0, done := true, job := none }) ∧
    (err = .ok → rs.r0.fits s.rw = false ∨ rs.r1.fits s.rw = false ∨ rs.r2.fits s.rw = false →
      s.complete err rs = { s with err := 4, done := true, job := none }) ∧
    (err ≠ .ok → s.complete err rs = { s with err := err.code, done := true, job := none }) ∧
    (∀ v : Int, (Result.unsigned v).fits s.rw = true ↔ 0 ≤ v ∧ v < 2 ^ s.rw) ∧
    (∀ v : Int, (Result.signed v).fits s.rw = true ↔ -2 ^ (s.rw - 1) ≤ v ∧ v < 2 ^ (s.rw - 1))

/-! ### PrimeFinder -/

/-- 40_prime.md R110, R115: the test rejects 1 and even numbers, and else exactly the numbers that an odd i from 3 on
with i * i <= p divides; so it accepts exactly the odd primes (an inference the spec marks as its own: R115, "[derived: from rule R110]"
and "[from general knowledge, not in source]"). -/
def Obligations.AcceptsExactlyTheOddPrimes : Prop :=
  ∀ p : Nat,
    (accept p = true ↔ p ≠ 1 ∧ p % 2 ≠ 0 ∧ ∀ i : Nat, 3 ≤ i → i % 2 = 1 → i * i ≤ p → p % i ≠ 0) ∧
    (accept p = true ↔ p.Prime ∧ p ≠ 2)

/-- 40_prime.md R111: PRIME_TEST completes in its one engine step with 1 for an accepted OPA and 0 for any other. -/
def Obligations.PrimeTestResult : Prop :=
  decode 0x00000001 = .legal .primeTest ∧
  ∀ s : State, s.LegalConfig →
    exec .primeTest s = .next { s with
      res0 := if accept (s.uint .a) then 1 else 0
      res1 := 0, res2 := 0, err := 0, done := true, job := none }

/-- 40_prime.md R114, 42_keygen.md R161 and the spec's inference 00_scope.md R9 ("[derived: ...]"): the digit counts
FIND_PRIME and GEN_KEYS accept, and DMAX_P and DMAX_K, their largest. -/
def Obligations.DigitCountRanges : Prop :=
  (∀ opw d : Nat,
    (digitsOkP opw d = true ↔ 1 ≤ d ∧ 10 ^ d - 1 < 2 ^ opw) ∧
    (digitsOkK opw d = true ↔ 1 ≤ d ∧ (10 ^ d - 1) ^ 2 < 2 ^ opw) ∧
    (digitsOkP opw d = true ↔ 1 ≤ d ∧ d ≤ Config.dmaxP opw) ∧
    (digitsOkK opw d = true ↔ 1 ≤ d ∧ d ≤ Config.dmaxK opw)) ∧
  Config.dmaxP 64 = 19 ∧ Config.dmaxK 64 = 9

/-- 60_exceptions.md R195, 40_prime.md R112: a draw for d digits lies in [10^(d-1), 10^d - 1], whatever the source
answers, and a queued value of the range is drawn as it is (the queue and the fold into the range are the model's,
notes/assumptions/4.md). -/
def Obligations.DrawStaysInItsRange : Prop :=
  ∀ (s : State) (d : Nat), 1 ≤ d →
    (10 ^ (d - 1) ≤ s.candidate d ∧ s.candidate d ≤ 10 ^ d - 1) ∧
    (∀ (c : Nat) (cs : List Nat), s.draws = c :: cs → 10 ^ (d - 1) ≤ c → c ≤ 10 ^ d - 1 → s.candidate d = c)

/-- 40_prime.md R113, R114: one engine step of FIND_PRIME, with d = OPA: ERR_ARG without a draw when d is out of range;
else one draw, which completes the command when it is accepted and changes nothing of the block when it is not. Where the
draw comes from is the model's (notes/assumptions/4.md). -/
def Obligations.FindPrimeStep : Prop :=
  decode 0x00000002 = .legal .findPrime ∧
  ∀ s : State, s.LegalConfig →
    (¬(1 ≤ s.uint .a ∧ 10 ^ s.uint .a - 1 < 2 ^ s.opw) →
      exec .findPrime s = .next { s with err := 3, done := true, job := none }) ∧
    (1 ≤ s.uint .a → 10 ^ s.uint .a - 1 < 2 ^ s.opw →
      let c := s.drawn (10 ^ (s.uint .a - 1)) (10 ^ s.uint .a - 1)
      exec .findPrime s =
        if accept c then
          .next { s with
            res0 := BitVec.ofNat 2048 c, res1 := 0, res2 := 0, err := 0, done := true, job := none
            draws := s.draws.tail, drawCount := s.drawCount + 1 }
        else .next { s with draws := s.draws.tail, drawCount := s.drawCount + 1 })

/-- 40_prime.md R116, R118: what a FIND_PRIME that completes with ERR_OK leaves in RES0 is an odd prime of d digits, and
each such prime can be returned (the spec marks both rules as its inferences, "[derived: from rules R113, R115]"). -/
def Obligations.FindPrimeReturnsExactlyTheOddPrimes : Prop :=
  ∀ s : State, s.LegalConfig → s.busy = true → 1 ≤ s.uint .a → 10 ^ s.uint .a - 1 < 2 ^ s.opw →
    (∀ t : State, exec .findPrime s = .next t → t.job = none →
      t.err = 0 ∧ t.res0.toNat.Prime ∧ t.res0.toNat ≠ 2 ∧
      10 ^ (s.uint .a - 1) ≤ t.res0.toNat ∧ t.res0.toNat ≤ 10 ^ s.uint .a - 1) ∧
    (∀ p : Nat, p.Prime → p ≠ 2 → 10 ^ (s.uint .a - 1) ≤ p → p ≤ 10 ^ s.uint .a - 1 →
      ∃ t : State, exec .findPrime { s with draws := [p] } = .next t ∧ t.job = none ∧ t.res0 = BitVec.ofNat 2048 p)

/-! ### ExtendedEuclid -/

/-- 41_euclid.md R131: the last term of a trace is the gcd, it is 0 only when both operands are, and each term after the
second is smaller than the one before it (the spec's inference: R131, "[from general knowledge, not in source]"). -/
def Obligations.TraceEndsInTheGcd : Prop :=
  ∀ x y : Nat,
    lastTerm (trace x y).1 = Nat.gcd x y ∧
    (lastTerm (trace x y).1 = 0 ↔ x = 0 ∧ y = 0) ∧
    ∀ i : Nat, 2 ≤ i → i < (trace x y).1.length → (trace x y).1.getD i 0 < (trace x y).1.getD (i - 1) 0

/-- 41_euclid.md R132 (Lamé's bound, "[from general knowledge, not in source]"): a trace of OPW-bit operands has at most
3 * OPW / 2 + 2 terms. -/
def Obligations.TraceLengthIsBounded : Prop :=
  ∀ opw x y : Nat, x < 2 ^ opw → y < 2 ^ opw → (trace x y).1.length ≤ 3 * opw / 2 + 2

/-- 41_euclid.md R133, R136, R139 and the spec's inference R135 ("[derived: from rules R130, R133, R134]"): a pair that
bezout returns solves a * x + b * y = t, and it answers DOMAIN exactly when no integer pair does; and the pair is the one of
R133 and no other, since the last five clauses determine bezout: operands out of order are swapped and the pair swapped back,
a trace of one or two terms gives its pair outright, and each further term of a trace is one step back through it. -/
def Obligations.BezoutSolvesOrNoSolutionExists : Prop :=
  ∀ (x y : Nat) (t : Int),
    (∀ a b : Int, bezout x y t = some (a, b) → a * x + b * y = t) ∧
    (bezout x y t = none ↔ ¬∃ a b : Int, a * x + b * y = t) ∧
    (bezout x y t = none ↔ (x = 0 ∧ y = 0 ∧ t ≠ 0) ∨ (0 < Nat.gcd x y ∧ ¬((Nat.gcd x y : Int) ∣ t))) ∧
    (x < y → bezout x y t = (bezout y x t).map fun ab => (ab.2, ab.1)) ∧
    (x = 0 → y = 0 → bezout x y t = if t = 0 then some (0, 0) else none) ∧
    (0 < x → y = 0 → bezout x y t = if (x : Int) ∣ t then some (t / x, 0) else none) ∧
    (0 < y → y ≤ x → x % y = 0 → bezout x y t = if (y : Int) ∣ t then some (0, t / y) else none) ∧
    (0 < y → y ≤ x → x % y ≠ 0 →
      bezout x y t = (bezout y (x % y) t).map fun ab => (ab.2, ab.1 - ab.2 * ((x / y : Nat) : Int)))

/-- 41_euclid.md R137, which the spec only observed: the size of bezout's coefficients. -/
def Obligations.BezoutCoefficientsAreSmall : Prop :=
  ∀ (x y : Nat) (t a b : Int), 0 < x → 0 < y → bezout x y t = some (a, b) →
    a.natAbs ≤ y / Nat.gcd x y * (t / (Nat.gcd x y : Int)).natAbs ∧
    b.natAbs ≤ x / Nat.gcd x y * (t / (Nat.gcd x y : Int)).natAbs

/-- 41_euclid.md R138: norm leaves a positive d as it is and else adds phi the smallest number L >= 1 of times that makes
it positive, which lands it in (0, phi] (the closed form is the spec's inference, "[derived: ...]"). -/
def Obligations.NormAddsTheSmallestMultiple : Prop :=
  ∀ (d : Int) (phi : Nat), 0 < phi →
    (0 < d → norm d phi = d) ∧
    (d ≤ 0 →
      (∃ l : Int, 1 ≤ l ∧ norm d phi = d + l * phi ∧ 0 < d + l * phi ∧
        ∀ l' : Int, 1 ≤ l' → 0 < d + l' * phi → l ≤ l') ∧
      0 < norm d phi ∧ norm d phi ≤ phi) ∧
    ∀ e : Int, norm d phi * e % phi = d * e % phi

/-- 41_euclid.md R140 through R131: GCD completes in its one engine step with the greatest common divisor of OPA and OPB,
which is the last term of their trace. -/
def Obligations.GcdResult : Prop :=
  decode 0x00000003 = .legal .gcd ∧
  ∀ s : State, s.LegalConfig →
    exec .gcd s = .next { s with
      res0 := BitVec.ofNat 2048 (Nat.gcd (s.uint .a) (s.uint .b))
      res1 := 0, res2 := 0, err := 0, done := true, job := none }

/-- 41_euclid.md R141: SOLVE_BEZOUT completes in its one engine step: with ERR_DOMAIN when bezout has no pair, with the
pair when it fits, and with ERR_OVERFLOW when it does not; and the pairs of the rule's corner cases and example. That the
pair is R133's for all operands is stated by BezoutSolvesOrNoSolutionExists. -/
def Obligations.SolveBezoutResult : Prop :=
  decode 0x00000004 = .legal .solveBezout ∧
  bezout 3 7 1 = some (-2, 1) ∧
  bezout 0 0 0 = some (0, 0) ∧
  (∀ t : Int, t ≠ 0 → bezout 0 0 t = none) ∧
  (∀ x y : Nat, 0 < Nat.gcd x y → bezout x y 0 = some (0, 0)) ∧
  (∀ (x : Nat) (t : Int), 0 < x → (x : Int) ∣ t →
    bezout x 0 t = some (t / x, 0) ∧ bezout 0 x t = some (0, t / x) ∧ bezout x x t = some (0, t / x)) ∧
  ∀ s : State, s.LegalConfig →
    (bezout (s.uint .a) (s.uint .b) (s.sint .c) = none →
      exec .solveBezout s = .next { s with err := 2, done := true, job := none }) ∧
    (∀ a b : Int, bezout (s.uint .a) (s.uint .b) (s.sint .c) = some (a, b) →
      (-2 ^ (s.rw - 1) ≤ a ∧ a < 2 ^ (s.rw - 1) ∧ -2 ^ (s.rw - 1) ≤ b ∧ b < 2 ^ (s.rw - 1) →
        exec .solveBezout s = .next { s with
          res0 := (BitVec.ofInt s.rw a).setWidth 2048
          res1 := (BitVec.ofInt s.rw b).setWidth 2048
          res2 := 0, err := 0, done := true, job := none }) ∧
      (¬(-2 ^ (s.rw - 1) ≤ a ∧ a < 2 ^ (s.rw - 1) ∧ -2 ^ (s.rw - 1) ≤ b ∧ b < 2 ^ (s.rw - 1)) →
        exec .solveBezout s = .next { s with err := 4, done := true, job := none }))

/-- 41_euclid.md R135 to R137, R139 at the command: SOLVE_BEZOUT never overflows; when gcd(x, y) divides the target it
completes with a pair whose words, read as two's complement, solve the equation, and else with ERR_DOMAIN. -/
def Obligations.SolveBezoutSolvesTheEquation : Prop :=
  ∀ s : State, s.LegalConfig →
    ((Nat.gcd (s.uint .a) (s.uint .b) : Int) ∣ s.sint .c →
      ∃ t : State, exec .solveBezout s = .next t ∧ t.err = 0 ∧ t.done = true ∧ t.job = none ∧
        (t.res0.setWidth s.rw).toInt * s.uint .a + (t.res1.setWidth s.rw).toInt * s.uint .b = s.sint .c) ∧
    (¬(Nat.gcd (s.uint .a) (s.uint .b) : Int) ∣ s.sint .c →
      exec .solveBezout s = .next { s with err := 2, done := true, job := none })

/-- 41_euclid.md R143: MOD_INVERSE completes in its one engine step: with ERR_DOMAIN when gcd(e, phi) is not 1, else with
the normalised coefficient when it fits and ERR_OVERFLOW when it does not. -/
def Obligations.ModInverseResult : Prop :=
  decode 0x00000005 = .legal .modInverse ∧
  ∀ s : State, s.LegalConfig →
    (Nat.gcd (s.uint .a) (s.uint .b) ≠ 1 →
      exec .modInverse s = .next { s with err := 2, done := true, job := none }) ∧
    (Nat.gcd (s.uint .a) (s.uint .b) = 1 →
      ∃ d k : Int, bezout (s.uint .a) (s.uint .b) 1 = some (d, k) ∧
        (0 < s.uint .b → 0 < norm d (s.uint .b) ∧ (norm d (s.uint .b) * s.uint .a - 1) % s.uint .b = 0) ∧
        exec .modInverse s =
          if norm d (s.uint .b) < 2 ^ s.rw then
            .next { s with
              res0 := BitVec.ofNat 2048 (norm d (s.uint .b)).toNat
              res1 := 0, res2 := 0, err := 0, done := true, job := none }
          else .next { s with err := 4, done := true, job := none })

/-- 41_euclid.md R144, whose bound the spec gives without proof: for coprime e and phi > 1, MOD_INVERSE leaves the inverse
of e in (0, phi). -/
def Obligations.ModInverseIsTheInverse : Prop :=
  ∀ s : State, s.LegalConfig → Nat.gcd (s.uint .a) (s.uint .b) = 1 → 1 < s.uint .b →
    ∃ d : Nat, 0 < d ∧ d < s.uint .b ∧ d * s.uint .a % s.uint .b = 1 ∧
      exec .modInverse s = .next { s with
        res0 := BitVec.ofNat 2048 d, res1 := 0, res2 := 0, err := 0, done := true, job := none }

/-! ### KeyGenerator -/

/-- 42_keygen.md R160, R161, phase SAMPLE_P: ERR_ARG without a draw when the digit count is out of range; else one draw,
which becomes p and moves the command to SAMPLE_Q when it is accepted, and changes nothing of the block when it is
not. Where the draw comes from is the model's (notes/assumptions/4.md). -/
def Obligations.GenKeysFirstPhase : Prop :=
  decode 0x00000006 = .legal .genKeys ∧
  ∀ (s : State) (j : Job), s.LegalConfig → s.job = some j → j.phase = .sampleP →
    (¬(1 ≤ s.uint .a ∧ (10 ^ s.uint .a - 1) ^ 2 < 2 ^ s.opw) →
      exec .genKeys s = .next { s with err := 3, done := true, job := none }) ∧
    (1 ≤ s.uint .a → (10 ^ s.uint .a - 1) ^ 2 < 2 ^ s.opw →
      let c := s.drawn (10 ^ (s.uint .a - 1)) (10 ^ s.uint .a - 1)
      exec .genKeys s =
        if accept c then
          .next { s with
            job := some { word := j.word, phase := .sampleQ, psaved := c }
            draws := s.draws.tail, drawCount := s.drawCount + 1 }
        else .next { s with draws := s.draws.tail, drawCount := s.drawCount + 1 })

/-- 42_keygen.md R160, R162, R163, phase SAMPLE_Q, where p is psaved: a rejected draw changes nothing of the block; an
accepted draw q completes the command, with ERR_DOMAIN when 65537 and (p-1)(q-1) have no Bézout pair for 1, and else with
n, 65537 and the normalised coefficient (ERR_OVERFLOW when one does not fit). Where the draw comes from is the model's
(notes/assumptions/4.md). -/
def Obligations.GenKeysSecondPhase : Prop :=
  ∀ (s : State) (j : Job), s.LegalConfig → s.job = some j → j.phase = .sampleQ →
    let p := j.psaved
    let q := s.drawn (10 ^ (s.uint .a - 1)) (10 ^ s.uint .a - 1)
    let t : State := { s with draws := s.draws.tail, drawCount := s.drawCount + 1 }
    (accept q = false → exec .genKeys s = .next t) ∧
    (accept q = true → bezout 65537 ((p - 1) * (q - 1)) 1 = none →
      exec .genKeys s = .next { t with err := 2, done := true, job := none }) ∧
    (∀ d k : Int, accept q = true → bezout 65537 ((p - 1) * (q - 1)) 1 = some (d, k) →
      let dk := norm d ((p - 1) * (q - 1))
      exec .genKeys s =
        if p * q < 2 ^ s.rw ∧ 0 ≤ dk ∧ dk < 2 ^ s.rw then
          .next { t with
            res0 := BitVec.ofNat 2048 (p * q), res1 := 65537, res2 := BitVec.ofNat 2048 dk.toNat
            err := 0, done := true, job := none }
        else .next { t with err := 4, done := true, job := none })

/-- 42_keygen.md R164: from a state of the invariant, the step that accepts q completes with ERR_DOMAIN exactly when
65537 divides (p-1)(q-1), and else succeeds (the spec's inference: R164, "[derived: ...]"). -/
def Obligations.GenKeysFailsExactlyWhenEDividesPhi : Prop :=
  ∀ (s : State) (j : Job), s.Inv → s.job = some j → decode j.word = .legal .genKeys → j.phase = .sampleQ →
    accept (s.candidate (s.uint .a)) = true →
    ∃ t : State, exec .genKeys s = .next t ∧ t.job = none ∧
      (t.err = 2 ↔ 65537 ∣ (j.psaved - 1) * (s.candidate (s.uint .a) - 1)) ∧ (t.err = 2 ∨ t.err = 0)

/-- 42_keygen.md R163, R167, R168: a successful GEN_KEYS leaves n = p * q below 2^OPW in RES0, 65537 in RES1 and a
d > 0 in RES2 with d * 65537 = 1 modulo (p-1)(q-1), for two odd primes p and q of OPA digits (the spec marks
R167 as following from other rules). -/
def Obligations.GenKeysLeavesAKey : Prop :=
  ∀ (s : State) (j : Job) (t : State), s.Inv → s.job = some j → decode j.word = .legal .genKeys →
    exec .genKeys s = .next t → t.job = none → t.err = 0 →
    ∃ p q : Nat,
      p.Prime ∧ q.Prime ∧ p ≠ 2 ∧ q ≠ 2 ∧
      10 ^ (s.uint .a - 1) ≤ p ∧ p < 10 ^ s.uint .a ∧ 10 ^ (s.uint .a - 1) ≤ q ∧ q < 10 ^ s.uint .a ∧
      t.res0.toNat = p * q ∧ p * q < 2 ^ s.opw ∧ t.res1.toNat = 65537 ∧ 0 < t.res2.toNat ∧
      t.res2.toNat * 65537 % ((p - 1) * (q - 1)) = 1 % ((p - 1) * (q - 1))

/-! ### Cipher -/

/-- 43_cipher.md R170: the repeated squaring computes b^k mod n, with b^0 = 1. -/
def Obligations.ModexpIsThePower : Prop :=
  ∀ b k n : Nat, 0 < n → modexp b k n = b ^ k % n

/-- 43_cipher.md R171 to R175: ENCRYPT and DECRYPT complete in their one engine step with OPA ^ OPC mod OPB, for every
OPA, or with ERR_ARG when OPB is 0. -/
def Obligations.EncryptAndDecryptResult : Prop :=
  decode 0x00000007 = .legal .encrypt ∧ decode 0x00000008 = .legal .decrypt ∧
  ∀ (s : State) (i : Instr), s.LegalConfig → i ∈ [Instr.encrypt, .decrypt] →
    (s.uint .b = 0 → exec i s = .next { s with err := 3, done := true, job := none }) ∧
    (0 < s.uint .b →
      exec i s = .next { s with
        res0 := BitVec.ofNat 2048 (s.uint .a ^ s.uint .c % s.uint .b)
        res1 := 0, res2 := 0, err := 0, done := true, job := none })

/-- 43_cipher.md R176, 42_keygen.md R167: with the key a successful GEN_KEYS leaves for two different primes p and q,
DECRYPT of ENCRYPT of m is m, for every m below n (RSA correctness, R167 "[from general knowledge, not in source]"). -/
def Obligations.DecryptUndoesEncrypt : Prop :=
  ∀ (p q d m : Nat) (s t u : State), s.LegalConfig → p.Prime → q.Prime → p ≠ q →
    d * 65537 % ((p - 1) * (q - 1)) = 1 % ((p - 1) * (q - 1)) → m < p * q →
    s.uint .a = m → s.uint .b = p * q → s.uint .c = 65537 → exec .encrypt s = .next t →
    u.LegalConfig → u.uint .a = t.res0.toNat → u.uint .b = p * q → u.uint .c = d →
    ∃ v : State, exec .decrypt u = .next v ∧ v.err = 0 ∧ v.res0.toNat = m

/-! ### The whole machine -/

/-- 10_state.md R22, R23, 60_exceptions.md R186: what an engine step leaves unchanged, for each of the eight commands. The
operands, IE, OVR, LASTOP, the parameters and the host never change; the results, DONE and ERR stay as they are unless the
command ends, and the results also when it ends with an error; only FIND_PRIME and GEN_KEYS draw; so every offset of the
window outside RES0 to RES2 and STATUS reads as before. -/
def Obligations.EngineStepFrame : Prop :=
  ∀ (i : Instr) (s t : State), exec i s = .next t →
    t.opa = s.opa ∧ t.opb = s.opb ∧ t.opc = s.opc ∧ t.ie = s.ie ∧ t.ovr = s.ovr ∧ t.lastop = s.lastop ∧
    t.opw = s.opw ∧ t.base = s.base ∧ t.prog = s.prog ∧ t.seen = s.seen ∧ t.hostFault = s.hostFault ∧
    t.agenda = s.agenda ∧ t.turn = s.turn ∧
    (t.job ≠ none → t.res0 = s.res0 ∧ t.res1 = s.res1 ∧ t.res2 = s.res2 ∧ t.done = s.done ∧ t.err = s.err) ∧
    (t.err ≠ 0 → t.res0 = s.res0 ∧ t.res1 = s.res1 ∧ t.res2 = s.res2) ∧
    (i ≠ .findPrime → i ≠ .genKeys → t.draws = s.draws ∧ t.drawCount = s.drawCount) ∧
    (∀ off : Offset, ¬(0x400 ≤ off.toNat ∧ off.toNat ≤ 0x6FF) → ¬(0x00C ≤ off.toNat ∧ off.toNat ≤ 0x00F) →
      t.readWord off = s.readWord off)

/-- 70_reset_and_hazards.md R224: every command but FIND_PRIME and GEN_KEYS completes in its first engine step. -/
def Obligations.ExecCommandsCompleteInOneStep : Prop :=
  ∀ (s : State) (j : Job), s.chosen = .engine → s.job = some j →
    decode j.word ≠ .legal .findPrime → decode j.word ≠ .legal .genKeys →
    ∃ t : State, step s = .next t ∧ t.busy = false ∧ t.done = true

/-- 60_exceptions.md R182, R191: whatever an engine step of a running command does, if it ends the command with an error
then every operand and result register is as it was before. -/
def Obligations.ErrorsLeaveOperandsAndResults : Prop :=
  ∀ s t : State, s.busy = true → engineStep s = .next t → t.busy = false → t.err ≠ 0 →
    t.opa = s.opa ∧ t.opb = s.opb ∧ t.opc = s.opc ∧ t.res0 = s.res0 ∧ t.res1 = s.res1 ∧ t.res2 = s.res2 ∧
    t.done = true ∧ t.lastop = s.lastop

/-- 30_encoding.md R93: an operand a command does not read may hold anything: changing it changes no result and no
code. -/
def Obligations.UnreadOperandsDoNotMatter : Prop :=
  ∀ (i : Instr) (s : State) (b c : OpReg),
    (i ∈ [Instr.primeTest, .findPrime, .genKeys] → ∀ t : State, exec i s = .next t →
      exec i { s with opb := b, opc := c } = .next { t with opb := b, opc := c }) ∧
    (i ∈ [Instr.gcd, .modInverse] → ∀ t : State, exec i s = .next t →
      exec i { s with opc := c } = .next { t with opc := c })

/-- 10_state.md R37, 60_exceptions.md R190, 70_reset_and_hazards.md R222: irq is DONE and IE; a completion raises it when
IE is set, and setting IE later raises it too; clearing DONE or accepting a command lowers it. -/
def Obligations.InterruptFollowsDoneAndIe : Prop :=
  ∀ s : State,
    (s.irq = true ↔ s.done = true ∧ s.ie = true) ∧
    (∀ (err : ErrCode) (rs : Results), (s.complete err rs).irq = s.ie) ∧
    (∀ data : Word, data.getLsbD 0 = true → (s.writeCtrl data).irq = s.done) ∧
    (∀ data : Word, data.getLsbD 1 = true → (s.writeStatus data).irq = false) ∧
    (∀ w : Word, (s.acceptCmd w).irq = false)

/-- 60_exceptions.md R194: a rejected draw, and GEN_KEYS's move to SAMPLE_Q, show the host nothing: after an engine step
that does not end the command, every offset reads as before and irq is as before. -/
def Obligations.SamplingIsInvisible : Prop :=
  ∀ (s t : State), s.busy = true → engineStep s = .next t → t.busy = true →
    (∀ off : Offset, t.readWord off = s.readWord off) ∧ t.irq = s.irq

/-- 70_reset_and_hazards.md R217, 10_state.md R22: while a command runs, no step but a reset changes an operand. -/
def Obligations.OperandsHoldWhileBusy : Prop :=
  ∀ s t : State, s.busy = true → step s = .next t → s.chosen ≠ .reset →
    t.opa = s.opa ∧ t.opb = s.opb ∧ t.opc = s.opc

/-- 70_reset_and_hazards.md R220, 10_state.md R23: a result register changes only in a reset and in the engine step that
ends a running command with ERR_OK. -/
def Obligations.ResultsChangeOnlyAtSuccess : Prop :=
  ∀ s t : State, step s = .next t → (t.res0 ≠ s.res0 ∨ t.res1 ≠ s.res1 ∨ t.res2 ≠ s.res2) →
    s.chosen = .reset ∨
      (s.chosen = .engine ∧ s.busy = true ∧ t.busy = false ∧ t.done = true ∧ t.err = 0)

/-- 10_state.md R26, R28 to R32 and 70_reset_and_hazards.md R210: which steps change each bit of control and status. A
command starts only in an accepted CMD write and ends only in a reset or an engine step. DONE is set only by the engine
step that ends a command, and cleared only by reset, by a STATUS write with bit 1 set, or by an accepted CMD write. OVR is
set only by a host step while a command runs, and cleared only by reset or by a STATUS write with bit 2 set. ERR changes
only in a reset, an accepted CMD write, or the engine step that ends a command. LASTOP changes only in a reset or an
accepted CMD write; IE only in a reset or a CTRL write. -/
def Obligations.StatusChangesOnlyAsStated : Prop :=
  ∀ s t : State, step s = .next t →
    (s.busy = false → t.busy = true →
      s.chosen = .host ∧ ∃ (data : Word) (rest : List HostOp), s.prog = .wr 0x010 4 data :: rest) ∧
    (s.busy = true → t.busy = false → s.chosen = .reset ∨ s.chosen = .engine) ∧
    (s.done = false → t.done = true → s.chosen = .engine ∧ s.busy = true ∧ t.busy = false) ∧
    (s.done = true → t.done = false → s.chosen = .reset ∨
      (s.chosen = .host ∧ ∃ (data : Word) (rest : List HostOp),
        (s.prog = .wr 0x00C 4 data :: rest ∧ data.getLsbD 1 = true) ∨
        (s.busy = false ∧ s.prog = .wr 0x010 4 data :: rest))) ∧
    (s.ovr = false → t.ovr = true → s.chosen = .host ∧ s.busy = true) ∧
    (s.ovr = true → t.ovr = false → s.chosen = .reset ∨
      (s.chosen = .host ∧ ∃ (data : Word) (rest : List HostOp),
        s.prog = .wr 0x00C 4 data :: rest ∧ data.getLsbD 2 = true)) ∧
    (t.err ≠ s.err → s.chosen = .reset ∨
      (s.chosen = .host ∧ s.busy = false ∧ ∃ (data : Word) (rest : List HostOp),
        s.prog = .wr 0x010 4 data :: rest) ∨
      (s.chosen = .engine ∧ s.busy = true ∧ t.busy = false)) ∧
    (t.lastop ≠ s.lastop → s.chosen = .reset ∨
      (s.chosen = .host ∧ s.busy = false ∧ ∃ (data : Word) (rest : List HostOp),
        s.prog = .wr 0x010 4 data :: rest)) ∧
    (t.ie ≠ s.ie → s.chosen = .reset ∨
      (s.chosen = .host ∧ ∃ (data : Word) (rest : List HostOp), s.prog = .wr 0x008 4 data :: rest))

/-- 10_state.md R22, R23, R29, R31, R32, R34, 60_exceptions.md R181 as one invariant that every step of every agent keeps:
legal parameters, registers within their widths, an error code of at most 4, DONE and ERR clear while a command runs, and
a JOB whose phase and psaved are those of its word. -/
def Obligations.StepKeepsTheInvariant : Prop :=
  ∀ s t : State, s.Inv → step s = .next t → t.Inv

/-- 60_exceptions.md R180, 70_reset_and_hazards.md R216: nothing traps: every step from every state answers a next state
of the same implementation. -/
def Obligations.StepAlwaysAnswers : Prop :=
  ∀ s : State, ∃ t : State, step s = .next t ∧ t.opw = s.opw ∧ t.base = s.base

/-- 70_reset_and_hazards.md R225, 40_prime.md R117: under ENGINE_FAIR every command but FIND_PRIME and GEN_KEYS ends, and
under ENGINE_FAIR and ENTROPY_FAIR every command does. Both assumptions are hypotheses (70_reset_and_hazards.md R225). -/
def Obligations.FairRunsEndEveryCommand : Prop :=
  ∀ σ : Nat → State, IsRun σ → EngineFair σ → ∀ (n : Nat) (j : Job), (σ n).job = some j →
    (decode j.word ≠ .legal .findPrime → decode j.word ≠ .legal .genKeys → ∃ m, n ≤ m ∧ (σ m).busy = false) ∧
    (EntropyFair σ → ∃ m, n ≤ m ∧ (σ m).busy = false)
end

