-- ==== Sys2Proof/Laws/State.lean ====
section
/-! SUPPORT. One lemma per field per update of the state, so that no later proof unfolds a record update. -/

namespace Sys2Proof.Machine

/-! ### `State.complete` -/

@[simp] theorem State.complete_opa (s : State) (err : ErrCode) (rs : Results) : (s.complete err rs).opa = s.opa := rfl
@[simp] theorem State.complete_opb (s : State) (err : ErrCode) (rs : Results) : (s.complete err rs).opb = s.opb := rfl
@[simp] theorem State.complete_opc (s : State) (err : ErrCode) (rs : Results) : (s.complete err rs).opc = s.opc := rfl
@[simp] theorem State.complete_res0 (s : State) (err : ErrCode) (rs : Results) :
    (s.complete err rs).res0 = completedReg s.rw (completionCode s.rw err rs) s.res0 rs.r0 := rfl
@[simp] theorem State.complete_res1 (s : State) (err : ErrCode) (rs : Results) :
    (s.complete err rs).res1 = completedReg s.rw (completionCode s.rw err rs) s.res1 rs.r1 := rfl
@[simp] theorem State.complete_res2 (s : State) (err : ErrCode) (rs : Results) :
    (s.complete err rs).res2 = completedReg s.rw (completionCode s.rw err rs) s.res2 rs.r2 := rfl
@[simp] theorem State.complete_ie (s : State) (err : ErrCode) (rs : Results) : (s.complete err rs).ie = s.ie := rfl
@[simp] theorem State.complete_done (s : State) (err : ErrCode) (rs : Results) : (s.complete err rs).done = true := rfl
@[simp] theorem State.complete_ovr (s : State) (err : ErrCode) (rs : Results) : (s.complete err rs).ovr = s.ovr := rfl
@[simp] theorem State.complete_err (s : State) (err : ErrCode) (rs : Results) :
    (s.complete err rs).err = (completionCode s.rw err rs).code := rfl
@[simp] theorem State.complete_lastop (s : State) (err : ErrCode) (rs : Results) :
    (s.complete err rs).lastop = s.lastop := rfl
@[simp] theorem State.complete_job (s : State) (err : ErrCode) (rs : Results) : (s.complete err rs).job = none := rfl
@[simp] theorem State.complete_opw (s : State) (err : ErrCode) (rs : Results) : (s.complete err rs).opw = s.opw := rfl
@[simp] theorem State.complete_base (s : State) (err : ErrCode) (rs : Results) :
    (s.complete err rs).base = s.base := rfl
@[simp] theorem State.complete_prog (s : State) (err : ErrCode) (rs : Results) :
    (s.complete err rs).prog = s.prog := rfl
@[simp] theorem State.complete_seen (s : State) (err : ErrCode) (rs : Results) :
    (s.complete err rs).seen = s.seen := rfl
@[simp] theorem State.complete_hostFault (s : State) (err : ErrCode) (rs : Results) :
    (s.complete err rs).hostFault = s.hostFault := rfl
@[simp] theorem State.complete_agenda (s : State) (err : ErrCode) (rs : Results) :
    (s.complete err rs).agenda = s.agenda := rfl
@[simp] theorem State.complete_turn (s : State) (err : ErrCode) (rs : Results) :
    (s.complete err rs).turn = s.turn := rfl
@[simp] theorem State.complete_draws (s : State) (err : ErrCode) (rs : Results) :
    (s.complete err rs).draws = s.draws := rfl
@[simp] theorem State.complete_drawCount (s : State) (err : ErrCode) (rs : Results) :
    (s.complete err rs).drawCount = s.drawCount := rfl

/-! ### `State.acceptCmd` -/

@[simp] theorem State.acceptCmd_opa (s : State) (w : Word) : (s.acceptCmd w).opa = s.opa := rfl
@[simp] theorem State.acceptCmd_opb (s : State) (w : Word) : (s.acceptCmd w).opb = s.opb := rfl
@[simp] theorem State.acceptCmd_opc (s : State) (w : Word) : (s.acceptCmd w).opc = s.opc := rfl
@[simp] theorem State.acceptCmd_res0 (s : State) (w : Word) : (s.acceptCmd w).res0 = s.res0 := rfl
@[simp] theorem State.acceptCmd_res1 (s : State) (w : Word) : (s.acceptCmd w).res1 = s.res1 := rfl
@[simp] theorem State.acceptCmd_res2 (s : State) (w : Word) : (s.acceptCmd w).res2 = s.res2 := rfl
@[simp] theorem State.acceptCmd_ie (s : State) (w : Word) : (s.acceptCmd w).ie = s.ie := rfl
@[simp] theorem State.acceptCmd_done (s : State) (w : Word) : (s.acceptCmd w).done = false := rfl
@[simp] theorem State.acceptCmd_ovr (s : State) (w : Word) : (s.acceptCmd w).ovr = s.ovr := rfl
@[simp] theorem State.acceptCmd_err (s : State) (w : Word) : (s.acceptCmd w).err = 0 := rfl
@[simp] theorem State.acceptCmd_lastop (s : State) (w : Word) : (s.acceptCmd w).lastop = opField w := rfl
@[simp] theorem State.acceptCmd_job (s : State) (w : Word) :
    (s.acceptCmd w).job = some { word := w, phase := startPhase w, psaved := 0 } := rfl
@[simp] theorem State.acceptCmd_opw (s : State) (w : Word) : (s.acceptCmd w).opw = s.opw := rfl
@[simp] theorem State.acceptCmd_base (s : State) (w : Word) : (s.acceptCmd w).base = s.base := rfl
@[simp] theorem State.acceptCmd_prog (s : State) (w : Word) : (s.acceptCmd w).prog = s.prog := rfl
@[simp] theorem State.acceptCmd_seen (s : State) (w : Word) : (s.acceptCmd w).seen = s.seen := rfl
@[simp] theorem State.acceptCmd_hostFault (s : State) (w : Word) : (s.acceptCmd w).hostFault = s.hostFault := rfl
@[simp] theorem State.acceptCmd_agenda (s : State) (w : Word) : (s.acceptCmd w).agenda = s.agenda := rfl
@[simp] theorem State.acceptCmd_turn (s : State) (w : Word) : (s.acceptCmd w).turn = s.turn := rfl
@[simp] theorem State.acceptCmd_draws (s : State) (w : Word) : (s.acceptCmd w).draws = s.draws := rfl
@[simp] theorem State.acceptCmd_drawCount (s : State) (w : Word) : (s.acceptCmd w).drawCount = s.drawCount := rfl

/-! ### `State.overrun` -/

@[simp] theorem State.overrun_opa (s : State) : (s.overrun).opa = s.opa := rfl
@[simp] theorem State.overrun_opb (s : State) : (s.overrun).opb = s.opb := rfl
@[simp] theorem State.overrun_opc (s : State) : (s.overrun).opc = s.opc := rfl
@[simp] theorem State.overrun_res0 (s : State) : (s.overrun).res0 = s.res0 := rfl
@[simp] theorem State.overrun_res1 (s : State) : (s.overrun).res1 = s.res1 := rfl
@[simp] theorem State.overrun_res2 (s : State) : (s.overrun).res2 = s.res2 := rfl
@[simp] theorem State.overrun_ie (s : State) : (s.overrun).ie = s.ie := rfl
@[simp] theorem State.overrun_done (s : State) : (s.overrun).done = s.done := rfl
@[simp] theorem State.overrun_ovr (s : State) : (s.overrun).ovr = true := rfl
@[simp] theorem State.overrun_err (s : State) : (s.overrun).err = s.err := rfl
@[simp] theorem State.overrun_lastop (s : State) : (s.overrun).lastop = s.lastop := rfl
@[simp] theorem State.overrun_job (s : State) : (s.overrun).job = s.job := rfl
@[simp] theorem State.overrun_opw (s : State) : (s.overrun).opw = s.opw := rfl
@[simp] theorem State.overrun_base (s : State) : (s.overrun).base = s.base := rfl
@[simp] theorem State.overrun_prog (s : State) : (s.overrun).prog = s.prog := rfl
@[simp] theorem State.overrun_seen (s : State) : (s.overrun).seen = s.seen := rfl
@[simp] theorem State.overrun_hostFault (s : State) : (s.overrun).hostFault = s.hostFault := rfl
@[simp] theorem State.overrun_agenda (s : State) : (s.overrun).agenda = s.agenda := rfl
@[simp] theorem State.overrun_turn (s : State) : (s.overrun).turn = s.turn := rfl
@[simp] theorem State.overrun_draws (s : State) : (s.overrun).draws = s.draws := rfl
@[simp] theorem State.overrun_drawCount (s : State) : (s.overrun).drawCount = s.drawCount := rfl

/-! ### `State.writeStatus` -/

@[simp] theorem State.writeStatus_opa (s : State) (d : Word) : (s.writeStatus d).opa = s.opa := rfl
@[simp] theorem State.writeStatus_opb (s : State) (d : Word) : (s.writeStatus d).opb = s.opb := rfl
@[simp] theorem State.writeStatus_opc (s : State) (d : Word) : (s.writeStatus d).opc = s.opc := rfl
@[simp] theorem State.writeStatus_res0 (s : State) (d : Word) : (s.writeStatus d).res0 = s.res0 := rfl
@[simp] theorem State.writeStatus_res1 (s : State) (d : Word) : (s.writeStatus d).res1 = s.res1 := rfl
@[simp] theorem State.writeStatus_res2 (s : State) (d : Word) : (s.writeStatus d).res2 = s.res2 := rfl
@[simp] theorem State.writeStatus_ie (s : State) (d : Word) : (s.writeStatus d).ie = s.ie := rfl
@[simp] theorem State.writeStatus_done (s : State) (d : Word) : (s.writeStatus d).done = (s.done && !d.getLsbD 1) := rfl
@[simp] theorem State.writeStatus_ovr (s : State) (d : Word) : (s.writeStatus d).ovr = (s.ovr && !d.getLsbD 2) := rfl
@[simp] theorem State.writeStatus_err (s : State) (d : Word) : (s.writeStatus d).err = s.err := rfl
@[simp] theorem State.writeStatus_lastop (s : State) (d : Word) : (s.writeStatus d).lastop = s.lastop := rfl
@[simp] theorem State.writeStatus_job (s : State) (d : Word) : (s.writeStatus d).job = s.job := rfl
@[simp] theorem State.writeStatus_opw (s : State) (d : Word) : (s.writeStatus d).opw = s.opw := rfl
@[simp] theorem State.writeStatus_base (s : State) (d : Word) : (s.writeStatus d).base = s.base := rfl
@[simp] theorem State.writeStatus_prog (s : State) (d : Word) : (s.writeStatus d).prog = s.prog := rfl
@[simp] theorem State.writeStatus_seen (s : State) (d : Word) : (s.writeStatus d).seen = s.seen := rfl
@[simp] theorem State.writeStatus_hostFault (s : State) (d : Word) : (s.writeStatus d).hostFault = s.hostFault := rfl
@[simp] theorem State.writeStatus_agenda (s : State) (d : Word) : (s.writeStatus d).agenda = s.agenda := rfl
@[simp] theorem State.writeStatus_turn (s : State) (d : Word) : (s.writeStatus d).turn = s.turn := rfl
@[simp] theorem State.writeStatus_draws (s : State) (d : Word) : (s.writeStatus d).draws = s.draws := rfl
@[simp] theorem State.writeStatus_drawCount (s : State) (d : Word) : (s.writeStatus d).drawCount = s.drawCount := rfl

/-! ### `State.writeCtrl` -/

@[simp] theorem State.writeCtrl_opa (s : State) (d : Word) : (s.writeCtrl d).opa = s.opa := rfl
@[simp] theorem State.writeCtrl_opb (s : State) (d : Word) : (s.writeCtrl d).opb = s.opb := rfl
@[simp] theorem State.writeCtrl_opc (s : State) (d : Word) : (s.writeCtrl d).opc = s.opc := rfl
@[simp] theorem State.writeCtrl_res0 (s : State) (d : Word) : (s.writeCtrl d).res0 = s.res0 := rfl
@[simp] theorem State.writeCtrl_res1 (s : State) (d : Word) : (s.writeCtrl d).res1 = s.res1 := rfl
@[simp] theorem State.writeCtrl_res2 (s : State) (d : Word) : (s.writeCtrl d).res2 = s.res2 := rfl
@[simp] theorem State.writeCtrl_ie (s : State) (d : Word) : (s.writeCtrl d).ie = d.getLsbD 0 := rfl
@[simp] theorem State.writeCtrl_done (s : State) (d : Word) : (s.writeCtrl d).done = s.done := rfl
@[simp] theorem State.writeCtrl_ovr (s : State) (d : Word) : (s.writeCtrl d).ovr = s.ovr := rfl
@[simp] theorem State.writeCtrl_err (s : State) (d : Word) : (s.writeCtrl d).err = s.err := rfl
@[simp] theorem State.writeCtrl_lastop (s : State) (d : Word) : (s.writeCtrl d).lastop = s.lastop := rfl
@[simp] theorem State.writeCtrl_job (s : State) (d : Word) : (s.writeCtrl d).job = s.job := rfl
@[simp] theorem State.writeCtrl_opw (s : State) (d : Word) : (s.writeCtrl d).opw = s.opw := rfl
@[simp] theorem State.writeCtrl_base (s : State) (d : Word) : (s.writeCtrl d).base = s.base := rfl
@[simp] theorem State.writeCtrl_prog (s : State) (d : Word) : (s.writeCtrl d).prog = s.prog := rfl
@[simp] theorem State.writeCtrl_seen (s : State) (d : Word) : (s.writeCtrl d).seen = s.seen := rfl
@[simp] theorem State.writeCtrl_hostFault (s : State) (d : Word) : (s.writeCtrl d).hostFault = s.hostFault := rfl
@[simp] theorem State.writeCtrl_agenda (s : State) (d : Word) : (s.writeCtrl d).agenda = s.agenda := rfl
@[simp] theorem State.writeCtrl_turn (s : State) (d : Word) : (s.writeCtrl d).turn = s.turn := rfl
@[simp] theorem State.writeCtrl_draws (s : State) (d : Word) : (s.writeCtrl d).draws = s.draws := rfl
@[simp] theorem State.writeCtrl_drawCount (s : State) (d : Word) : (s.writeCtrl d).drawCount = s.drawCount := rfl

/-! ### `State.resetBlock` -/

@[simp] theorem State.resetBlock_opa (s : State) : (s.resetBlock).opa = 0 := rfl
@[simp] theorem State.resetBlock_opb (s : State) : (s.resetBlock).opb = 0 := rfl
@[simp] theorem State.resetBlock_opc (s : State) : (s.resetBlock).opc = 0 := rfl
@[simp] theorem State.resetBlock_res0 (s : State) : (s.resetBlock).res0 = 0 := rfl
@[simp] theorem State.resetBlock_res1 (s : State) : (s.resetBlock).res1 = 0 := rfl
@[simp] theorem State.resetBlock_res2 (s : State) : (s.resetBlock).res2 = 0 := rfl
@[simp] theorem State.resetBlock_ie (s : State) : (s.resetBlock).ie = false := rfl
@[simp] theorem State.resetBlock_done (s : State) : (s.resetBlock).done = false := rfl
@[simp] theorem State.resetBlock_ovr (s : State) : (s.resetBlock).ovr = false := rfl
@[simp] theorem State.resetBlock_err (s : State) : (s.resetBlock).err = 0 := rfl
@[simp] theorem State.resetBlock_lastop (s : State) : (s.resetBlock).lastop = 0 := rfl
@[simp] theorem State.resetBlock_job (s : State) : (s.resetBlock).job = none := rfl
@[simp] theorem State.resetBlock_opw (s : State) : (s.resetBlock).opw = s.opw := rfl
@[simp] theorem State.resetBlock_base (s : State) : (s.resetBlock).base = s.base := rfl
@[simp] theorem State.resetBlock_prog (s : State) : (s.resetBlock).prog = s.prog := rfl
@[simp] theorem State.resetBlock_seen (s : State) : (s.resetBlock).seen = s.seen := rfl
@[simp] theorem State.resetBlock_hostFault (s : State) : (s.resetBlock).hostFault = s.hostFault := rfl
@[simp] theorem State.resetBlock_agenda (s : State) : (s.resetBlock).agenda = s.agenda := rfl
@[simp] theorem State.resetBlock_turn (s : State) : (s.resetBlock).turn = s.turn := rfl
@[simp] theorem State.resetBlock_draws (s : State) : (s.resetBlock).draws = s.draws := rfl
@[simp] theorem State.resetBlock_drawCount (s : State) : (s.resetBlock).drawCount = s.drawCount := rfl

/-! ### `State.afterDraw` -/

@[simp] theorem State.afterDraw_opa (s : State) : (s.afterDraw).opa = s.opa := rfl
@[simp] theorem State.afterDraw_opb (s : State) : (s.afterDraw).opb = s.opb := rfl
@[simp] theorem State.afterDraw_opc (s : State) : (s.afterDraw).opc = s.opc := rfl
@[simp] theorem State.afterDraw_res0 (s : State) : (s.afterDraw).res0 = s.res0 := rfl
@[simp] theorem State.afterDraw_res1 (s : State) : (s.afterDraw).res1 = s.res1 := rfl
@[simp] theorem State.afterDraw_res2 (s : State) : (s.afterDraw).res2 = s.res2 := rfl
@[simp] theorem State.afterDraw_ie (s : State) : (s.afterDraw).ie = s.ie := rfl
@[simp] theorem State.afterDraw_done (s : State) : (s.afterDraw).done = s.done := rfl
@[simp] theorem State.afterDraw_ovr (s : State) : (s.afterDraw).ovr = s.ovr := rfl
@[simp] theorem State.afterDraw_err (s : State) : (s.afterDraw).err = s.err := rfl
@[simp] theorem State.afterDraw_lastop (s : State) : (s.afterDraw).lastop = s.lastop := rfl
@[simp] theorem State.afterDraw_job (s : State) : (s.afterDraw).job = s.job := rfl
@[simp] theorem State.afterDraw_opw (s : State) : (s.afterDraw).opw = s.opw := rfl
@[simp] theorem State.afterDraw_base (s : State) : (s.afterDraw).base = s.base := rfl
@[simp] theorem State.afterDraw_prog (s : State) : (s.afterDraw).prog = s.prog := rfl
@[simp] theorem State.afterDraw_seen (s : State) : (s.afterDraw).seen = s.seen := rfl
@[simp] theorem State.afterDraw_hostFault (s : State) : (s.afterDraw).hostFault = s.hostFault := rfl
@[simp] theorem State.afterDraw_agenda (s : State) : (s.afterDraw).agenda = s.agenda := rfl
@[simp] theorem State.afterDraw_turn (s : State) : (s.afterDraw).turn = s.turn := rfl
@[simp] theorem State.afterDraw_draws (s : State) : (s.afterDraw).draws = s.draws.tail := rfl
@[simp] theorem State.afterDraw_drawCount (s : State) : (s.afterDraw).drawCount = s.drawCount + 1 := rfl

/-! ### `State.advance` -/

@[simp] theorem State.advance_opa (s : State) : (s.advance).opa = s.opa := rfl
@[simp] theorem State.advance_opb (s : State) : (s.advance).opb = s.opb := rfl
@[simp] theorem State.advance_opc (s : State) : (s.advance).opc = s.opc := rfl
@[simp] theorem State.advance_res0 (s : State) : (s.advance).res0 = s.res0 := rfl
@[simp] theorem State.advance_res1 (s : State) : (s.advance).res1 = s.res1 := rfl
@[simp] theorem State.advance_res2 (s : State) : (s.advance).res2 = s.res2 := rfl
@[simp] theorem State.advance_ie (s : State) : (s.advance).ie = s.ie := rfl
@[simp] theorem State.advance_done (s : State) : (s.advance).done = s.done := rfl
@[simp] theorem State.advance_ovr (s : State) : (s.advance).ovr = s.ovr := rfl
@[simp] theorem State.advance_err (s : State) : (s.advance).err = s.err := rfl
@[simp] theorem State.advance_lastop (s : State) : (s.advance).lastop = s.lastop := rfl
@[simp] theorem State.advance_job (s : State) : (s.advance).job = s.job := rfl
@[simp] theorem State.advance_opw (s : State) : (s.advance).opw = s.opw := rfl
@[simp] theorem State.advance_base (s : State) : (s.advance).base = s.base := rfl
@[simp] theorem State.advance_prog (s : State) : (s.advance).prog = s.prog := rfl
@[simp] theorem State.advance_seen (s : State) : (s.advance).seen = s.seen := rfl
@[simp] theorem State.advance_hostFault (s : State) : (s.advance).hostFault = s.hostFault := rfl
@[simp] theorem State.advance_agenda (s : State) : (s.advance).agenda = s.agenda.tail := rfl
@[simp] theorem State.advance_turn (s : State) : (s.advance).turn = s.turn + 1 := rfl
@[simp] theorem State.advance_draws (s : State) : (s.advance).draws = s.draws := rfl
@[simp] theorem State.advance_drawCount (s : State) : (s.advance).drawCount = s.drawCount := rfl

/-! ### `State.savePrime` -/

@[simp] theorem State.savePrime_opa (s : State) (p : Nat) : (s.savePrime p).opa = s.opa := rfl
@[simp] theorem State.savePrime_opb (s : State) (p : Nat) : (s.savePrime p).opb = s.opb := rfl
@[simp] theorem State.savePrime_opc (s : State) (p : Nat) : (s.savePrime p).opc = s.opc := rfl
@[simp] theorem State.savePrime_res0 (s : State) (p : Nat) : (s.savePrime p).res0 = s.res0 := rfl
@[simp] theorem State.savePrime_res1 (s : State) (p : Nat) : (s.savePrime p).res1 = s.res1 := rfl
@[simp] theorem State.savePrime_res2 (s : State) (p : Nat) : (s.savePrime p).res2 = s.res2 := rfl
@[simp] theorem State.savePrime_ie (s : State) (p : Nat) : (s.savePrime p).ie = s.ie := rfl
@[simp] theorem State.savePrime_done (s : State) (p : Nat) : (s.savePrime p).done = s.done := rfl
@[simp] theorem State.savePrime_ovr (s : State) (p : Nat) : (s.savePrime p).ovr = s.ovr := rfl
@[simp] theorem State.savePrime_err (s : State) (p : Nat) : (s.savePrime p).err = s.err := rfl
@[simp] theorem State.savePrime_lastop (s : State) (p : Nat) : (s.savePrime p).lastop = s.lastop := rfl
@[simp] theorem State.savePrime_job (s : State) (p : Nat) :
    (s.savePrime p).job = s.job.map fun j => { j with phase := .sampleQ, psaved := p } := rfl
@[simp] theorem State.savePrime_opw (s : State) (p : Nat) : (s.savePrime p).opw = s.opw := rfl
@[simp] theorem State.savePrime_base (s : State) (p : Nat) : (s.savePrime p).base = s.base := rfl
@[simp] theorem State.savePrime_prog (s : State) (p : Nat) : (s.savePrime p).prog = s.prog := rfl
@[simp] theorem State.savePrime_seen (s : State) (p : Nat) : (s.savePrime p).seen = s.seen := rfl
@[simp] theorem State.savePrime_hostFault (s : State) (p : Nat) : (s.savePrime p).hostFault = s.hostFault := rfl
@[simp] theorem State.savePrime_agenda (s : State) (p : Nat) : (s.savePrime p).agenda = s.agenda := rfl
@[simp] theorem State.savePrime_turn (s : State) (p : Nat) : (s.savePrime p).turn = s.turn := rfl
@[simp] theorem State.savePrime_draws (s : State) (p : Nat) : (s.savePrime p).draws = s.draws := rfl
@[simp] theorem State.savePrime_drawCount (s : State) (p : Nat) : (s.savePrime p).drawCount = s.drawCount := rfl

/-! ### `State.hostRead` -/

@[simp] theorem State.hostRead_opa (s : State) (o : Offset) : (s.hostRead o).opa = s.opa := rfl
@[simp] theorem State.hostRead_opb (s : State) (o : Offset) : (s.hostRead o).opb = s.opb := rfl
@[simp] theorem State.hostRead_opc (s : State) (o : Offset) : (s.hostRead o).opc = s.opc := rfl
@[simp] theorem State.hostRead_res0 (s : State) (o : Offset) : (s.hostRead o).res0 = s.res0 := rfl
@[simp] theorem State.hostRead_res1 (s : State) (o : Offset) : (s.hostRead o).res1 = s.res1 := rfl
@[simp] theorem State.hostRead_res2 (s : State) (o : Offset) : (s.hostRead o).res2 = s.res2 := rfl
@[simp] theorem State.hostRead_ie (s : State) (o : Offset) : (s.hostRead o).ie = s.ie := rfl
@[simp] theorem State.hostRead_done (s : State) (o : Offset) : (s.hostRead o).done = s.done := rfl
@[simp] theorem State.hostRead_ovr (s : State) (o : Offset) : (s.hostRead o).ovr = s.ovr := rfl
@[simp] theorem State.hostRead_err (s : State) (o : Offset) : (s.hostRead o).err = s.err := rfl
@[simp] theorem State.hostRead_lastop (s : State) (o : Offset) : (s.hostRead o).lastop = s.lastop := rfl
@[simp] theorem State.hostRead_job (s : State) (o : Offset) : (s.hostRead o).job = s.job := rfl
@[simp] theorem State.hostRead_opw (s : State) (o : Offset) : (s.hostRead o).opw = s.opw := rfl
@[simp] theorem State.hostRead_base (s : State) (o : Offset) : (s.hostRead o).base = s.base := rfl
@[simp] theorem State.hostRead_prog (s : State) (o : Offset) : (s.hostRead o).prog = s.prog := rfl
@[simp] theorem State.hostRead_seen (s : State) (o : Offset) :
    (s.hostRead o).seen = { off := o, data := s.readWord o } :: s.seen := rfl
@[simp] theorem State.hostRead_hostFault (s : State) (o : Offset) : (s.hostRead o).hostFault = s.hostFault := rfl
@[simp] theorem State.hostRead_agenda (s : State) (o : Offset) : (s.hostRead o).agenda = s.agenda := rfl
@[simp] theorem State.hostRead_turn (s : State) (o : Offset) : (s.hostRead o).turn = s.turn := rfl
@[simp] theorem State.hostRead_draws (s : State) (o : Offset) : (s.hostRead o).draws = s.draws := rfl
@[simp] theorem State.hostRead_drawCount (s : State) (o : Offset) : (s.hostRead o).drawCount = s.drawCount := rfl

/-! ### `State.busError` -/

@[simp] theorem State.busError_opa (s : State) (o : Offset) : (s.busError o).opa = s.opa := rfl
@[simp] theorem State.busError_opb (s : State) (o : Offset) : (s.busError o).opb = s.opb := rfl
@[simp] theorem State.busError_opc (s : State) (o : Offset) : (s.busError o).opc = s.opc := rfl
@[simp] theorem State.busError_res0 (s : State) (o : Offset) : (s.busError o).res0 = s.res0 := rfl
@[simp] theorem State.busError_res1 (s : State) (o : Offset) : (s.busError o).res1 = s.res1 := rfl
@[simp] theorem State.busError_res2 (s : State) (o : Offset) : (s.busError o).res2 = s.res2 := rfl
@[simp] theorem State.busError_ie (s : State) (o : Offset) : (s.busError o).ie = s.ie := rfl
@[simp] theorem State.busError_done (s : State) (o : Offset) : (s.busError o).done = s.done := rfl
@[simp] theorem State.busError_ovr (s : State) (o : Offset) : (s.busError o).ovr = s.ovr := rfl
@[simp] theorem State.busError_err (s : State) (o : Offset) : (s.busError o).err = s.err := rfl
@[simp] theorem State.busError_lastop (s : State) (o : Offset) : (s.busError o).lastop = s.lastop := rfl
@[simp] theorem State.busError_job (s : State) (o : Offset) : (s.busError o).job = s.job := rfl
@[simp] theorem State.busError_opw (s : State) (o : Offset) : (s.busError o).opw = s.opw := rfl
@[simp] theorem State.busError_base (s : State) (o : Offset) : (s.busError o).base = s.base := rfl
@[simp] theorem State.busError_prog (s : State) (o : Offset) : (s.busError o).prog = s.prog := rfl
@[simp] theorem State.busError_seen (s : State) (o : Offset) : (s.busError o).seen = s.seen := rfl
@[simp] theorem State.busError_hostFault (s : State) (o : Offset) : (s.busError o).hostFault = some (.busError o) := rfl
@[simp] theorem State.busError_agenda (s : State) (o : Offset) : (s.busError o).agenda = s.agenda := rfl
@[simp] theorem State.busError_turn (s : State) (o : Offset) : (s.busError o).turn = s.turn := rfl
@[simp] theorem State.busError_draws (s : State) (o : Offset) : (s.busError o).draws = s.draws := rfl
@[simp] theorem State.busError_drawCount (s : State) (o : Offset) : (s.busError o).drawCount = s.drawCount := rfl

/-! ### `State.setOp` -/

@[simp] theorem State.setOp_res0 (s : State) (r : OpName) (v : OpReg) : (s.setOp r v).res0 = s.res0 := by cases r <;> rfl
@[simp] theorem State.setOp_res1 (s : State) (r : OpName) (v : OpReg) : (s.setOp r v).res1 = s.res1 := by cases r <;> rfl
@[simp] theorem State.setOp_res2 (s : State) (r : OpName) (v : OpReg) : (s.setOp r v).res2 = s.res2 := by cases r <;> rfl
@[simp] theorem State.setOp_ie (s : State) (r : OpName) (v : OpReg) : (s.setOp r v).ie = s.ie := by cases r <;> rfl
@[simp] theorem State.setOp_done (s : State) (r : OpName) (v : OpReg) : (s.setOp r v).done = s.done := by cases r <;> rfl
@[simp] theorem State.setOp_ovr (s : State) (r : OpName) (v : OpReg) : (s.setOp r v).ovr = s.ovr := by cases r <;> rfl
@[simp] theorem State.setOp_err (s : State) (r : OpName) (v : OpReg) : (s.setOp r v).err = s.err := by cases r <;> rfl
@[simp] theorem State.setOp_lastop (s : State) (r : OpName) (v : OpReg) : (s.setOp r v).lastop = s.lastop := by cases r <;> rfl
@[simp] theorem State.setOp_job (s : State) (r : OpName) (v : OpReg) : (s.setOp r v).job = s.job := by cases r <;> rfl
@[simp] theorem State.setOp_opw (s : State) (r : OpName) (v : OpReg) : (s.setOp r v).opw = s.opw := by cases r <;> rfl
@[simp] theorem State.setOp_base (s : State) (r : OpName) (v : OpReg) : (s.setOp r v).base = s.base := by cases r <;> rfl
@[simp] theorem State.setOp_prog (s : State) (r : OpName) (v : OpReg) : (s.setOp r v).prog = s.prog := by cases r <;> rfl
@[simp] theorem State.setOp_seen (s : State) (r : OpName) (v : OpReg) : (s.setOp r v).seen = s.seen := by cases r <;> rfl
@[simp] theorem State.setOp_hostFault (s : State) (r : OpName) (v : OpReg) : (s.setOp r v).hostFault = s.hostFault := by cases r <;> rfl
@[simp] theorem State.setOp_agenda (s : State) (r : OpName) (v : OpReg) : (s.setOp r v).agenda = s.agenda := by cases r <;> rfl
@[simp] theorem State.setOp_turn (s : State) (r : OpName) (v : OpReg) : (s.setOp r v).turn = s.turn := by cases r <;> rfl
@[simp] theorem State.setOp_draws (s : State) (r : OpName) (v : OpReg) : (s.setOp r v).draws = s.draws := by cases r <;> rfl
@[simp] theorem State.setOp_drawCount (s : State) (r : OpName) (v : OpReg) : (s.setOp r v).drawCount = s.drawCount := by cases r <;> rfl
@[simp] theorem State.setOp_opa (s : State) (r : OpName) (v : OpReg) :
    (s.setOp r v).opa = if r = .a then v else s.opa := by cases r <;> rfl
@[simp] theorem State.setOp_opb (s : State) (r : OpName) (v : OpReg) :
    (s.setOp r v).opb = if r = .b then v else s.opb := by cases r <;> rfl
@[simp] theorem State.setOp_opc (s : State) (r : OpName) (v : OpReg) :
    (s.setOp r v).opc = if r = .c then v else s.opc := by cases r <;> rfl
@[simp] theorem State.op_setOp (s : State) (r r' : OpName) (v : OpReg) :
    (s.setOp r v).op r' = if r = r' then v else s.op r' := by cases r <;> cases r' <;> rfl

end Sys2Proof.Machine
end

