-- ==== Sys2Proof/Laws/Ops.lean ====
section
/-! SUPPORT. What each shared operation can do, said once: words of a register, results and their width, completion,
draws, the register window, and the steps of the agents. -/

namespace Sys2Proof.Machine

/-! ### Words of a wide register -/

theorem getLsbD_getWord {n : Nat} (x : BitVec n) (i b : Nat) :
    (getWord x i).getLsbD b = (decide (b < 32) && x.getLsbD (32 * i + b)) := by
  simp [getWord, BitVec.getLsbD_extractLsb']

theorem getLsbD_setWord {n : Nat} (x : BitVec n) (i : Nat) (w : Word) (b : Nat) (hb : b < n) :
    (setWord x i w).getLsbD b =
      if 32 * i ≤ b ∧ b < 32 * i + 32 then w.getLsbD (b - 32 * i) else x.getLsbD b := by
  rw [setWord, BitVec.getLsbD_or, BitVec.getLsbD_and, BitVec.getLsbD_not, BitVec.getLsbD_shiftLeft,
    BitVec.getLsbD_shiftLeft, BitVec.getLsbD_setWidth, BitVec.getLsbD_setWidth, BitVec.getLsbD_allOnes]
  by_cases h1 : 32 * i ≤ b <;> by_cases h2 : b < 32 * i + 32
  · have h3 : b - 32 * i < 32 := by omega
    have h4 : b - 32 * i < n := by omega
    simp [hb, h1, h2, h3, h4, Nat.not_lt.mpr h1]
  · have h3 : ¬ b - 32 * i < 32 := by omega
    simp [hb, h2, h3, BitVec.getLsbD_of_ge w _ (Nat.le_of_not_lt h3)]
  · simp [hb, h1, Nat.lt_of_not_le h1]
  · omega

theorem getWord_setWord_same {n : Nat} (x : BitVec n) (i : Nat) (w : Word) (h : 32 * i + 32 ≤ n) :
    getWord (setWord x i w) i = w := by
  apply BitVec.eq_of_getLsbD_eq
  intro b hb
  rw [getLsbD_getWord, getLsbD_setWord _ _ _ _ (by omega)]
  simp [hb]

theorem getWord_setWord_other {n : Nat} (x : BitVec n) (i k : Nat) (w : Word) (h : 32 * k + 32 ≤ n) (hik : i ≠ k) :
    getWord (setWord x i w) k = getWord x k := by
  apply BitVec.eq_of_getLsbD_eq
  intro b hb
  rw [getLsbD_getWord, getLsbD_getWord, getLsbD_setWord _ _ _ _ (by omega), if_neg (by omega)]

/-- A register is within `m` bits exactly when no bit from `m` on is set. -/
theorem toNat_lt_iff_getLsbD {n : Nat} (x : BitVec n) (m : Nat) :
    x.toNat < 2 ^ m ↔ ∀ b, m ≤ b → x.getLsbD b = false := by
  constructor
  · intro h b hb
    exact Nat.testBit_lt_two_pow (lt_of_lt_of_le h (Nat.pow_le_pow_right (by omega) hb))
  · intro h
    exact Nat.lt_pow_two_of_testBit _ fun b hb => h b hb

/-- Writing a word below the register's width keeps the register within it. -/
theorem setWord_toNat_lt {n : Nat} (x : BitVec n) (i : Nat) (w : Word) (m : Nat) (h : 32 * i + 32 ≤ m)
    (hx : x.toNat < 2 ^ m) : (setWord x i w).toNat < 2 ^ m := by
  rw [toNat_lt_iff_getLsbD] at hx ⊢
  intro b hb
  by_cases hn : b < n
  · rw [getLsbD_setWord _ _ _ _ hn, if_neg (by omega)]
    exact hx b hb
  · exact BitVec.getLsbD_of_ge _ _ (by omega)

/-! ### Operands and results -/

theorem State.uint_lt (s : State) (r : OpName) : s.uint r < 2 ^ s.opw :=
  BitVec.isLt _

/-- Within its width, an operand register is its own number. -/
theorem State.uint_eq (s : State) (r : OpName) (h : (s.op r).toNat < 2 ^ s.opw) : s.uint r = (s.op r).toNat := by
  simp [State.uint, Nat.mod_eq_of_lt h]

theorem State.LegalConfig.bounds {s : State} (h : s.LegalConfig) :
    64 ≤ s.opw ∧ s.opw ≤ 1024 ∧ s.opw = 32 * s.nw ∧ s.base % 4096 = 0 := by
  have h1 := h.1
  have h2 := h.2
  simp only [WellFormed.opw, WellFormed.base, Bool.and_eq_true, decide_eq_true_eq] at h1 h2
  simp only [Config.minOpw, Config.maxOpw, Config.windowBytes] at h1 h2
  have h3 : s.opw = 32 * s.nw := by simp only [State.nw]; omega
  exact ⟨h1.1.1, h1.1.2, h3, h2⟩

/-- An unsigned result that fits is written as its number. -/
theorem encRes_natCast (rw v : Nat) (h : v < 2 ^ rw) : encRes rw (v : Int) = BitVec.ofNat 2048 v := by
  apply BitVec.eq_of_toNat_eq
  rw [encRes, BitVec.toNat_setWidth, BitVec.ofInt_natCast, BitVec.toNat_ofNat, BitVec.toNat_ofNat, Nat.mod_eq_of_lt h]

theorem encRes_toNat_lt (rw : Nat) (v : Int) : (encRes rw v).toNat < 2 ^ rw := by
  have h := (BitVec.ofInt rw v).isLt
  simp only [encRes, BitVec.toNat_setWidth]
  exact lt_of_le_of_lt (Nat.mod_le _ _) h

/-- Reading RW bits back as two's complement gives the signed result that was written. -/
theorem toInt_encRes (rw : Nat) (v : Int) (hw : rw ≤ 2048) (h0 : 0 < rw) (h : (Result.signed v).fits rw = true) :
    ((encRes rw v).setWidth rw).toInt = v := by
  have e : (encRes rw v).setWidth rw = BitVec.ofInt rw v := by
    apply BitVec.eq_of_toNat_eq
    have h1 := (BitVec.ofInt rw v).isLt
    rw [encRes, BitVec.toNat_setWidth, BitVec.toNat_setWidth,
      Nat.mod_eq_of_lt (lt_of_lt_of_le h1 (Nat.pow_le_pow_right (by omega) hw)), Nat.mod_eq_of_lt h1]
  simp only [Result.fits, Bool.and_eq_true, decide_eq_true_eq] at h
  rw [e, BitVec.toInt_ofInt]
  obtain ⟨k, rfl⟩ : ∃ k, rw = k + 1 := ⟨rw - 1, by omega⟩
  simp only [Nat.add_sub_cancel] at h
  have hp : ((2 ^ (k + 1) : Nat) : Int) = 2 * 2 ^ k := by push_cast; ring
  apply Int.bmod_eq_of_le <;> rw [hp] <;> omega

/-! ### Completion -/

theorem completionCode_ok {rw : Nat} {rs : Results} (h : rs.allFit rw = true) : completionCode rw .ok rs = .ok := by
  simp [completionCode, h]

theorem completionCode_overflow {rw : Nat} {rs : Results} (h : rs.allFit rw = false) :
    completionCode rw .ok rs = .overflow := by
  simp [completionCode, h]

theorem completionCode_error {rw : Nat} {err : ErrCode} {rs : Results} (h : err ≠ .ok) :
    completionCode rw err rs = err := by
  simp [completionCode, h]

/-- A completion whose results all fit. -/
theorem State.complete_ok (s : State) (rs : Results) (h : rs.allFit s.rw = true) :
    s.complete .ok rs = { s with
      res0 := encRes s.rw rs.r0.value, res1 := encRes s.rw rs.r1.value, res2 := encRes s.rw rs.r2.value
      err := 0, done := true, job := none } := by
  simp [State.complete, completionCode_ok h, completedReg, ErrCode.code]

/-- A completion with a result that does not fit. -/
theorem State.complete_overflow (s : State) (rs : Results) (h : rs.allFit s.rw = false) :
    s.complete .ok rs = { s with err := 4, done := true, job := none } := by
  simp [State.complete, completionCode_overflow h, completedReg, ErrCode.code]

/-- A completion with an error. -/
theorem State.complete_error (s : State) (err : ErrCode) (rs : Results) (h : err ≠ .ok) :
    s.complete err rs = { s with err := err.code, done := true, job := none } := by
  simp [State.complete, completionCode_error h, completedReg, h]

/-- A single unsigned result that fits an operand register fits its result register. -/
theorem Results.one_allFit (rw v : Nat) (h : v < 2 ^ rw) : (Results.one (v : Int)).allFit rw = true := by
  have h0 : (0 : Int) < 2 ^ rw := by positivity
  have h1 : (v : Int) < 2 ^ rw := by exact_mod_cast h
  simp [Results.one, Results.allFit, Result.fits, h1]

/-- A completion with one unsigned result that fits. -/
theorem State.complete_one (s : State) (v : Nat) (h : v < 2 ^ s.rw) :
    s.complete .ok (.one (v : Int)) = { s with
      res0 := BitVec.ofNat 2048 v, res1 := 0, res2 := 0, err := 0, done := true, job := none } := by
  have e0 : encRes s.rw 0 = 0 := encRes_natCast s.rw 0 (by positivity)
  rw [State.complete_ok _ _ (Results.one_allFit _ _ h)]
  simp [Results.one, Result.value, encRes_natCast _ _ h, e0]

theorem State.uint_lt_rw (s : State) (r : OpName) : s.uint r < 2 ^ s.rw :=
  lt_of_lt_of_le (s.uint_lt r) (Nat.pow_le_pow_right (by omega) (by simp only [State.rw]; omega))

theorem ErrCode.code_toNat_le (e : ErrCode) : e.code.toNat ≤ 4 := by cases e <;> decide

theorem ErrCode.code_eq_zero_iff (e : ErrCode) : e.code = 0 ↔ e = .ok := by cases e <;> decide

/-! ### Draws -/

theorem foldInto_mem (lo hi c : Nat) (h : lo ≤ hi) : lo ≤ foldInto lo hi c ∧ foldInto lo hi c ≤ hi := by
  unfold foldInto
  split
  · assumption
  · have := Nat.mod_lt c (show 0 < hi - lo + 1 by omega)
    omega

theorem foldInto_eq (lo hi c : Nat) (h1 : lo ≤ c) (h2 : c ≤ hi) : foldInto lo hi c = c := by
  simp [foldInto, h1, h2]

theorem sampleLo_le_sampleHi (d : Nat) (h : 1 ≤ d) : sampleLo d ≤ sampleHi d := by
  obtain ⟨k, rfl⟩ : ∃ k, d = k + 1 := ⟨d - 1, by omega⟩
  have : 0 < 10 ^ k := by positivity
  simp only [sampleLo, sampleHi, Nat.add_sub_cancel, pow_succ]
  omega

/-! ### The steps of the agents -/

/-- What one engine step of a command can do: it always answers a next state, which is a completion, a rejected draw, or
GEN_KEYS's move to SAMPLE_Q; only the sampling commands draw. -/
theorem exec_cases (i : Instr) (s : State) :
    ∃ t, exec i s = .next t ∧
      ((∃ err rs, t = s.complete err rs) ∨
        ((i = .findPrime ∨ i = .genKeys) ∧
          ((∃ err rs, t = s.afterDraw.complete err rs) ∨ t = s.afterDraw ∨ ∃ p, t = s.afterDraw.savePrime p))) := by
  cases i with
  | primeTest => exact ⟨_, rfl, .inl ⟨_, _, rfl⟩⟩
  | gcd => exact ⟨_, rfl, .inl ⟨_, _, rfl⟩⟩
  | findPrime =>
    simp only [exec, execFindPrime]
    split
    · split
      · exact ⟨_, rfl, .inr ⟨by simp, .inl ⟨_, _, rfl⟩⟩⟩
      · exact ⟨_, rfl, .inr ⟨by simp, .inr (.inl rfl)⟩⟩
    · exact ⟨_, rfl, .inl ⟨_, _, rfl⟩⟩
  | solveBezout =>
    simp only [exec, execSolveBezout]
    split <;> exact ⟨_, rfl, .inl ⟨_, _, rfl⟩⟩
  | modInverse =>
    simp only [exec, execModInverse]
    split <;> exact ⟨_, rfl, .inl ⟨_, _, rfl⟩⟩
  | genKeys =>
    simp only [exec, execGenKeys]
    split
    · refine ⟨_, rfl, .inr ⟨by simp, ?_⟩⟩
      simp only [State.genKeysQ]
      split
      · simp only [State.keygenFinal]
        split <;> exact .inl ⟨_, _, rfl⟩
      · exact .inr (.inl rfl)
    · refine ⟨_, rfl, ?_⟩
      simp only [State.genKeysP]
      split
      · split
        · exact .inr ⟨by simp, .inr (.inr ⟨_, rfl⟩)⟩
        · exact .inr ⟨by simp, .inr (.inl rfl)⟩
      · exact .inl ⟨_, _, rfl⟩
  | encrypt =>
    simp only [exec, execEncrypt, State.cipherStep]
    split <;> exact ⟨_, rfl, .inl ⟨_, _, rfl⟩⟩
  | decrypt =>
    simp only [exec, execDecrypt, State.cipherStep]
    split <;> exact ⟨_, rfl, .inl ⟨_, _, rfl⟩⟩

/-- What one engine step can do: nothing with no command running; else a completion, a rejected draw, or a first prime
saved. -/
theorem engineStep_cases (s : State) :
    ∃ t, engineStep s = .next t ∧
      ((s.job = none ∧ t = s) ∨
        (s.job.isSome ∧
          ((∃ err rs, t = s.complete err rs) ∨ (∃ err rs, t = s.afterDraw.complete err rs) ∨ t = s.afterDraw ∨
            ∃ p, t = s.afterDraw.savePrime p))) := by
  cases h : s.job with
  | none => exact ⟨s, by simp [engineStep, h], .inl ⟨rfl, rfl⟩⟩
  | some j =>
    cases hd : decode j.word with
    | illegal r => exact ⟨_, by simp only [engineStep, h, hd]; rfl, .inr ⟨rfl, .inl ⟨.illegal, .unused, rfl⟩⟩⟩
    | legal i =>
      obtain ⟨t, ht, hc⟩ := exec_cases i s
      exact ⟨t, by simp only [engineStep, h, hd, ht], .inr ⟨rfl, hc.imp_right And.right⟩⟩

/-- What a legal write can do. -/
theorem State.writeWord_cases (s : State) (off : Offset) (w : Word) :
    s.writeWord off w = s ∨
      (locate s.nw off = .ctrl ∧ s.writeWord off w = s.writeCtrl w) ∨
      (locate s.nw off = .status ∧ s.writeWord off w = s.writeStatus w) ∨
      (s.busy = true ∧ s.writeWord off w = s.overrun) ∨
      (s.busy = false ∧ locate s.nw off = .cmd ∧ s.writeWord off w = s.acceptCmd w) ∨
      (s.busy = false ∧ ∃ r i, locate s.nw off = .op r i ∧
        s.writeWord off w = s.setOp r (setWord (s.op r) i w)) := by
  cases h : locate s.nw off <;> cases hb : s.busy <;> simp [State.writeWord, h, hb]

/-- What one step of the host can do. -/
theorem State.hostStep_cases (s : State) :
    s.hostStep = s ∨
      (∃ off, s.hostFault = none ∧ s.hostStep = s.busError off) ∨
      (∃ off rest, s.hostFault = none ∧
        (s.hostStep = s.hostRead off ∨ s.hostStep = { s.hostRead off with prog := rest })) ∨
      (∃ off w rest, s.hostFault = none ∧ s.prog = .wr off 4 w :: rest ∧ off.toNat % 4 = 0 ∧
        s.hostStep = { s.writeWord off w with prog := rest }) := by
  cases hf : s.hostFault with
  | some f => exact .inl (by simp [State.hostStep, hf])
  | none =>
    cases hp : s.prog with
    | nil => exact .inl (by simp [State.hostStep, hf, hp])
    | cons op rest =>
      cases op with
      | rd off size =>
        by_cases ha : WellFormed.access off size = true
        · exact .inr (.inr (.inl ⟨off, rest, rfl, .inr (by simp [State.hostStep, hf, hp, State.transact, ha])⟩))
        · exact .inr (.inl ⟨off, rfl, by simp [State.hostStep, hf, hp, State.transact, ha]⟩)
      | wr off size w =>
        by_cases ha : WellFormed.access off size = true
        · have ha' := ha
          simp only [WellFormed.access, Bool.and_eq_true, decide_eq_true_eq] at ha'
          obtain ⟨rfl, hm⟩ := ha'
          exact .inr (.inr (.inr ⟨off, w, rest, rfl, rfl, hm, by simp [State.hostStep, hf, hp, State.transact, ha]⟩))
        · exact .inr (.inl ⟨off, rfl, by simp [State.hostStep, hf, hp, State.transact, ha]⟩)
      | wait =>
        refine .inr (.inr (.inl ⟨statusOffset, rest, rfl, ?_⟩))
        simp only [State.hostStep, hf, hp, State.transact]
        split
        · exact .inl rfl
        · exact .inr rfl

/-- What one step can do, by the agent that moves. -/
theorem step_cases (s : State) :
    ∃ t, step s = .next t ∧
      ((s.chosen = .host ∧ t = s.advance.hostStep) ∨
        (s.chosen = .engine ∧ engineStep s.advance = .next t) ∨
        (s.chosen = .reset ∧ t = s.advance.resetBlock)) := by
  cases h : s.chosen with
  | host => exact ⟨_, by simp only [step, agentStep, h], .inl ⟨rfl, rfl⟩⟩
  | engine =>
    obtain ⟨t, ht, -⟩ := engineStep_cases s.advance
    exact ⟨t, by simp only [step, agentStep, h, ht], .inr (.inl ⟨rfl, ht⟩)⟩
  | reset => exact ⟨_, by simp only [step, agentStep, h], .inr (.inr ⟨rfl, rfl⟩)⟩

end Sys2Proof.Machine
end

