-- ==== Sys2Proof/Laws/PerInstr.lean ====
section
/-! SUPPORT. Facts about every command as syntax, one lemma per constructor: it is well-formed, its word decodes to it, and
RSVD of its word is zero (30_encoding.md R90 to R92). -/

namespace Sys2Proof.Laws.Encoding

/-- The command is well-formed, its word is decoded back, from the word and from its bytes, and RSVD is zero. -/
def Statement (i : Instr) : Prop :=
  i.wellFormed = true ∧ decode (encode i) = .legal i ∧
    decodeBytes (bytesOfWord (encode i)) = some (.legal i, []) ∧ rsvdField (encode i) = 0

theorem primeTest : Statement .primeTest := by unfold Statement; decide
theorem findPrime : Statement .findPrime := by unfold Statement; decide
theorem gcd : Statement .gcd := by unfold Statement; decide
theorem solveBezout : Statement .solveBezout := by unfold Statement; decide
theorem modInverse : Statement .modInverse := by unfold Statement; decide
theorem genKeys : Statement .genKeys := by unfold Statement; decide
theorem encrypt : Statement .encrypt := by unfold Statement; decide
theorem decrypt : Statement .decrypt := by unfold Statement; decide

end Sys2Proof.Laws.Encoding
end

