-- ==== Sys2Proof/Laws/Window.lean ====
section
/-! SUPPORT. The address map at the offsets of the operand and result words, and of the five control registers; what a
legal transaction of the host does. -/

namespace Sys2Proof.Machine

/-- The number of an operand register's window (20_memory.md R66). -/
def opPage : OpName → Nat
  | .a => 1
  | .b => 2
  | .c => 3

/-- The number of a result register's window (20_memory.md R66). -/
def resPage : ResName → Nat
  | .r0 => 4
  | .r1 => 5
  | .r2 => 6

theorem opOffset_toNat (r : OpName) (i : Nat) (hi : i < 64) : (opOffset r i).toNat = 0x100 * opPage r + 4 * i := by
  cases r <;> simp only [opOffset, opPage, BitVec.toNat_ofNat] <;> omega

theorem resOffset_toNat (r : ResName) (i : Nat) (hi : i < 64) : (resOffset r i).toNat = 0x100 * resPage r + 4 * i := by
  cases r <;> simp only [resOffset, resPage, BitVec.toNat_ofNat] <;> omega

/-- Word `i` of an operand register stands at its window's offset plus 4 * i (20_memory.md R66). -/
theorem locate_opOffset {nw i : Nat} (r : OpName) (hi : i < nw) (hn : nw ≤ 32) :
    locate nw (opOffset r i) = .op r i := by
  have h := opOffset_toNat r i (by omega)
  have h1 : (opOffset r i).toNat / 0x100 = opPage r := by omega
  have h2 : (opOffset r i).toNat % 0x100 / 4 = i := by omega
  rw [locate, h1, h2]
  cases r <;> simp [locateAt, opPage, Loc.opWord, hi]

/-- Word `i` of a result register stands at its window's offset plus 4 * i (20_memory.md R66). -/
theorem locate_resOffset {nw i : Nat} (r : ResName) (hi : i < 2 * nw) (hn : nw ≤ 32) :
    locate nw (resOffset r i) = .res r i := by
  have h := resOffset_toNat r i (by omega)
  have h1 : (resOffset r i).toNat / 0x100 = resPage r := by omega
  have h2 : (resOffset r i).toNat % 0x100 / 4 = i := by omega
  rw [locate, h1, h2]
  cases r <;> simp [locateAt, resPage, Loc.resWord, hi]

@[simp] theorem locate_id (nw : Nat) : locate nw 0#12 = .id := rfl
@[simp] theorem locate_cfg (nw : Nat) : locate nw 4#12 = .cfg := rfl
@[simp] theorem locate_ctrl (nw : Nat) : locate nw 8#12 = .ctrl := rfl
@[simp] theorem locate_status (nw : Nat) : locate nw 12#12 = .status := rfl
@[simp] theorem locate_cmd (nw : Nat) : locate nw 16#12 = .cmd := rfl

theorem locateAt_eq_op_iff {nw page k : Nat} {r : OpName} {i : Nat} :
    locateAt nw page k = .op r i ↔ page = opPage r ∧ k = i ∧ i < nw := by
  unfold locateAt
  split
  · split <;> cases r <;> simp [opPage]
  all_goals
    cases r <;> simp only [Loc.opWord, Loc.resWord, opPage] <;> (try split) <;> simp <;> rintro rfl <;>
      first | assumption | exact Nat.le_of_not_lt ‹_› | simp_all

/-- Exactly the words below NW of the three operand windows are operand words (20_memory.md R66, R67). -/
theorem locate_eq_op_iff {nw : Nat} {off : Offset} {r : OpName} {i : Nat} :
    locate nw off = .op r i ↔ off.toNat / 0x100 = opPage r ∧ off.toNat % 0x100 / 4 = i ∧ i < nw :=
  locateAt_eq_op_iff

theorem locateAt_control {nw page k : Nat} {l : Loc} (n : Nat) (hl : (l, n) ∈ [(Loc.ctrl, 2), (.status, 3), (.cmd, 4)])
    (h : locateAt nw page k = l) : page = 0 ∧ k = n := by
  simp only [List.mem_cons, Prod.mk.injEq, List.not_mem_nil, or_false] at hl
  unfold locateAt at h
  split at h
  · split at h <;> subst h <;> simp_all
  all_goals
    exfalso
    (try simp only [Loc.opWord, Loc.resWord] at h)
    (try split at h) <;> subst h <;> simp at hl

/-- An aligned offset at which CTRL, STATUS or CMD stands is that register's offset (20_memory.md R66). -/
theorem locate_control {nw : Nat} {off : Offset} {l : Loc} (n : Nat)
    (hl : (l, n) ∈ [(Loc.ctrl, 2), (.status, 3), (.cmd, 4)]) (ha : off.toNat % 4 = 0) (h : locate nw off = l) :
    off.toNat = 4 * n := by
  have := locateAt_control n hl h
  omega

theorem WellFormed.access_four {off : Offset} (h : off.toNat % 4 = 0) : WellFormed.access off 4 = true := by
  simp [WellFormed.access, h]

theorem WellFormed.access_iff {off : Offset} {size : Nat} :
    WellFormed.access off size = true ↔ size = 4 ∧ off.toNat % 4 = 0 := by
  simp [WellFormed.access]

/-- A legal read of the host. -/
theorem State.hostStep_rd {s : State} {off : Offset} {rest : List HostOp} (hf : s.hostFault = none)
    (hp : s.prog = .rd off 4 :: rest) (ha : off.toNat % 4 = 0) :
    s.hostStep = { s with seen := ⟨off, s.readWord off⟩ :: s.seen, prog := rest } := by
  simp [State.hostStep, hf, hp, State.transact, WellFormed.access_four ha, State.hostRead]

/-- A legal write of the host. -/
theorem State.hostStep_wr {s : State} {off : Offset} {w : Word} {rest : List HostOp} (hf : s.hostFault = none)
    (hp : s.prog = .wr off 4 w :: rest) (ha : off.toNat % 4 = 0) :
    s.hostStep = { s.writeWord off w with prog := rest } := by
  simp [State.hostStep, hf, hp, State.transact, WellFormed.access_four ha]

/-- A host stopped by a fault does nothing more. -/
theorem State.hostStep_stopped {s : State} (hf : s.hostFault ≠ none) : s.hostStep = s := by
  cases h : s.hostFault with
  | none => exact absurd h hf
  | some f => simp [State.hostStep, h]

end Sys2Proof.Machine
end

