-- ==== Sys2Proof/Tests/Slice0.lean ====
section
/-! SUPPORT. Tests of the model against the worked examples and vectors of spec/95_test_vectors.md (expected values are
the spec's), a smoke test of well-formedness, and for every obligation with hypotheses a state that meets them. -/

namespace Sys2Proof.Tests

set_option Elab.async false

open Sys2Proof.Machine

/-! ### Helpers -/

/-- The reset state with operand values. -/
def withOps (a b c : Nat) : State :=
  { State.reset with opa := BitVec.ofNat 1024 a, opb := BitVec.ofNat 1024 b, opc := BitVec.ofNat 1024 c }

/-- A state in which the word `w` was just accepted and the entropy source will answer `draws`. -/
def running (w : Word) (a b c : Nat) (draws : List Nat) : State :=
  { (withOps a b c).withCommand w with draws := draws }

/-- A state whose host performs `ops`, next. -/
def hosting (ops : List HostOp) : State := { State.reset with prog := ops, agenda := [.host] }

/-- The same while a command runs. -/
def hostingBusy (ops : List HostOp) : State := { running 0x00000001 97 0 0 [] with prog := ops, agenda := [.host] }

/-- The state after one step. -/
def after (s : State) : State :=
  match step s with
  | .next t => t
  | .fault _ => s
  | .refused _ => s

/-- STATUS and RES0 after one step. -/
def outcome (s : State) : Word × Nat := ((after s).statusWord, (after s).res0.toNat)

/-! ### Well-formedness refuses what is ill-formed -/

theorem test_wf_opw_too_small : WellFormed.opw 32 = false := by decide
theorem test_wf_opw_too_large : WellFormed.opw 1056 = false := by decide
theorem test_wf_opw_not_multiple : WellFormed.opw 80 = false := by decide
theorem test_wf_opw_legal : WellFormed.opw 64 = true ∧ WellFormed.opw 1024 = true := by decide
theorem test_wf_base_not_aligned : WellFormed.base 0x800 = false ∧ WellFormed.base 0x3000 = true := by decide
theorem test_wf_access_size : WellFormed.access 0x10C 8 = false ∧ WellFormed.access 0x000 2 = false := by decide
theorem test_wf_access_alignment : WellFormed.access 0x002 4 = false ∧ WellFormed.access 0x00C 4 = true := by decide

/-! ### Decoding: each command's word, written out from 30_encoding.md R91 (RSVD [31:8] = 0, OP [7:0]) -/

theorem test_decode_primeTest : decode 0b00000000000000000000000000000001#32 = .legal .primeTest := by decide
theorem test_decode_findPrime : decode 0b00000000000000000000000000000010#32 = .legal .findPrime := by decide
theorem test_decode_gcd : decode 0b00000000000000000000000000000011#32 = .legal .gcd := by decide
theorem test_decode_solveBezout : decode 0b00000000000000000000000000000100#32 = .legal .solveBezout := by decide
theorem test_decode_modInverse : decode 0b00000000000000000000000000000101#32 = .legal .modInverse := by decide
theorem test_decode_genKeys : decode 0b00000000000000000000000000000110#32 = .legal .genKeys := by decide
theorem test_decode_encrypt : decode 0b00000000000000000000000000000111#32 = .legal .encrypt := by decide
theorem test_decode_decrypt : decode 0b00000000000000000000000000001000#32 = .legal .decrypt := by decide

/-- The byte at the lowest offset holds bits [7:0] (20_memory.md R64). -/
theorem test_decode_little_endian :
    decodeBytes [0x05, 0x00, 0x00, 0x00, 0xAA] = some (.legal .modInverse, [0xAA]) ∧
      decodeBytes [0x00, 0x00, 0x00, 0x05] = some (.illegal .reservedBits, []) ∧ decodeBytes [0x05, 0x00, 0x00] = none := by
  decide

theorem test_table_word : decodeTableWord 32 0x00000006 = some .genKeys ∧ decodeTableWord 32 0x00000106 = none := by decide

/-- The first step after reset runs the word that was placed: PRIME_TEST of OPA = 0 (V-PT-1). -/
theorem test_first_step_runs_the_word : outcome (State.reset.withFetchWord 32 0x00000001) = (0x00010002, 0) := by
  decide +kernel

/-! ### The commands: vectors of 95_test_vectors.md -/

/-- V-PT-7, V-PT-3. -/
theorem test_primeTest_97 : outcome (running 0x00000001 97 0 0 []) = (0x00010002, 1) := by decide +kernel
theorem test_primeTest_2 : outcome (running 0x00000001 2 0 0 []) = (0x00010002, 0) := by decide +kernel
/-- V-FP-2: 15 is rejected, 61 is the result. -/
theorem test_findPrime_rejects_15 : outcome (running 0x00000002 2 0 0 [15, 61]) = (0x00020001, 0) := by decide +kernel
theorem test_findPrime_finds_61 : outcome (running 0x00000002 2 0 0 [61]) = (0x00020002, 61) := by decide +kernel
/-- V-GCD-7, V-GCD-5. -/
theorem test_gcd_1071_462 : outcome (running 0x00000003 1071 462 0 []) = (0x00030002, 21) := by decide +kernel
theorem test_gcd_zero_operand : outcome (running 0x00000003 0 7 0 []) = (0x00030002, 7) := by decide +kernel
/-- V-SB-1: RES0 = -2 in 128 bits, RES1 = 1. -/
theorem test_solveBezout_3_7 :
    outcome (running 0x00000004 3 7 1 []) = (0x00040002, 2 ^ 128 - 2) ∧ (after (running 0x00000004 3 7 1 [])).res1 = 1 := by
  decide +kernel
/-- V-SB-10: 6 does not divide 7. -/
theorem test_solveBezout_domain : outcome (running 0x00000004 12 18 7 []) = (0x00040202, 0) := by decide +kernel
/-- V-MI-1, V-MI-14. -/
theorem test_modInverse_17_3120 : outcome (running 0x00000005 17 3120 0 []) = (0x00050002, 2753) := by decide +kernel
theorem test_modInverse_phi_one : outcome (running 0x00000005 0 1 0 []) = (0x00050002, 1) := by decide +kernel
/-- V-GK-1: after 61, the draw 53 completes the key. -/
theorem test_genKeys_61_53 :
    (after { after (running 0x00000006 2 0 0 [61, 53]) with agenda := [.engine] }).res0 = 3233 ∧
      (after { after (running 0x00000006 2 0 0 [61, 53]) with agenda := [.engine] }).res1 = 65537 ∧
      (after { after (running 0x00000006 2 0 0 [61, 53]) with agenda := [.engine] }).res2 = 2753 := by
  decide +kernel
/-- V-GK-9: ten digits are too many for OPW = 64. -/
theorem test_genKeys_too_many_digits : outcome (running 0x00000006 10 0 0 []) = (0x00060302, 0) := by decide +kernel
/-- V-CI-1, V-CI-14. -/
theorem test_encrypt_65 : outcome (running 0x00000007 65 3233 17 []) = (0x00070002, 2790) := by decide +kernel
theorem test_encrypt_modulus_zero : outcome (running 0x00000007 65 0 17 []) = (0x00070302, 0) := by decide +kernel
/-- V-CI-2, V-CI-18. -/
theorem test_decrypt_2790 : outcome (running 0x00000008 2790 3233 2753 []) = (0x00080002, 65) := by decide +kernel
theorem test_decrypt_c_equals_n : outcome (running 0x00000008 3233 3233 5 []) = (0x00080002, 0) := by decide +kernel
/-- V-REG-9. -/
theorem test_illegal_word : outcome (running 0x00000101 97 0 0 []) = (0x00010102, 0) := by decide +kernel

/-! ### The window and the host: V-REG vectors -/

/-- V-REG-1, V-REG-3. -/
theorem test_window_constants :
    State.reset.readWord 0x000 = 0x52534143 ∧ State.reset.readWord 0x004 = 0x00000002 ∧
      locate 2 0x108 = .reserved ∧ locate 2 0x410 = .reserved ∧ locate 2 0xFFC = .reserved := by
  decide +kernel
/-- 20_memory.md R65: OPA word 1 at 0x104 holds bits [63:32]. -/
theorem test_operand_word_write :
    (after (hosting [.wr 0x104 4 0x00000005])).opa.toNat = 5 * 2 ^ 32 := by decide +kernel
/-- V-REG-12: a dropped write sets OVR and leaves the operand. -/
theorem test_overrun :
    (after (hostingBusy [.wr 0x100 4 5])).ovr = true ∧ (after (hostingBusy [.wr 0x100 4 5])).opa = 97 := by decide +kernel
/-- V-REG-6: a misaligned read stops the host. -/
theorem test_bus_error : (after (hosting [.rd 0x002 4])).hostFault = some (.busError 0x002) := by decide +kernel
/-- 95_test_vectors.md P2: `WROP OPC, -6` writes 0xFFFFFFFA to 0x300 and 0xFFFFFFFF to 0x304. -/
theorem test_wrop_negative :
    (HostLine.wrop .c (-6)).expand 64 = [.wr 0x300 4 0xFFFFFFFA, .wr 0x304 4 0xFFFFFFFF] := by decide +kernel
/-- 95_test_vectors.md P1: `START MOD_INVERSE`, `ACK`, `RDRES RES0`. -/
theorem test_assemble :
    assemble 64 [.start .modInverse, .ack, .rdres .r0] =
      [.wr 0x010 4 0x00000005, .wr 0x00C 4 0x00000002, .rd 0x400 4, .rd 0x404 4, .rd 0x408 4, .rd 0x40C 4] := by
  decide +kernel
/-- V-REG-19: reset ends a running FIND_PRIME. -/
theorem test_reset_ends_a_command :
    (after { running 0x00000002 3 0 0 [] with agenda := [.reset] }).statusWord = 0 ∧
      (after { running 0x00000002 3 0 0 [] with agenda := [.reset] }).opa = 0 := by
  decide +kernel

/-! ### Hypotheses are met: one state per obligation that has hypotheses, one per clause where it has several -/

theorem witness_ByteDecodeAgreesWithEncode :
    Instr.gcd.wellFormed = true ∧ decodeBytes [3, 0, 0, 0] = some (.legal .gcd, []) := by decide

theorem witness_ResetStepClearsTheBlock :
    ({ hostingBusy [] with agenda := [.reset] } : State).LegalConfig ∧
      ({ hostingBusy [] with agenda := [.reset] } : State).chosen = .reset := by decide +kernel

/-- The last word of OPA (0x104) and of RES2 (0x60C) in the reference configuration. -/
theorem witness_WideRegistersAreReadWordByWord :
    State.reset.LegalConfig ∧ 1 < State.reset.nw ∧ ¬2 < State.reset.nw ∧ 3 < 2 * State.reset.nw ∧
      (withOps 0 0 (2 ^ 63)).sint .c < 0 := by decide +kernel

theorem witness_OperandsAssembleFromTheirWords :
    (withOps (2 ^ 64 - 1) 0 (2 ^ 64 - 6)).LegalConfig ∧ (withOps 0 0 (2 ^ 64 - 6)).sint .c = -6 := by decide +kernel

/-- One state per range, at its ends, for a read and for a write. -/
theorem witness_ReservedOffsetsReadZeroIgnoreWrites :
    ([(0x014 : Offset), 0x0FC, 0x700, 0xFFC, 0x108, 0x1FC, 0x3FC, 0x410, 0x6FC].all fun off =>
      decide (off.toNat % 4 = 0) &&
      (decide (0x014 ≤ off.toNat ∧ off.toNat ≤ 0x0FF) || decide (0x700 ≤ off.toNat ∧ off.toNat ≤ 0xFFF) ||
        decide (0x100 ≤ off.toNat ∧ off.toNat ≤ 0x3FF ∧ State.reset.nw ≤ off.toNat % 0x100 / 4) ||
        decide (0x400 ≤ off.toNat ∧ off.toNat ≤ 0x6FF ∧ 2 * State.reset.nw ≤ off.toNat % 0x100 / 4))) = true ∧
    (hosting [.rd 0x014 4]).hostFault = none ∧ (hosting [.rd 0x014 4]).prog = .rd 0x014 4 :: [] ∧
    (hostingBusy [.wr 0x108 4 5]).hostFault = none ∧ (hostingBusy [.wr 0x108 4 5]).prog = .wr 0x108 4 5 :: [] := by
  decide +kernel

/-- The last operand word (index 1) of OPC: a read, a write while idle, a write while a command runs. -/
theorem witness_OperandWordAccess :
    BitVec.ofNat 12 (0x100 * 3 + 4 * 1) = (0x304 : Offset) ∧
    (hostingBusy [.rd 0x304 4]).LegalConfig ∧ (hostingBusy [.rd 0x304 4]).prog = .rd 0x304 4 :: [] ∧
    1 < (hosting [.wr 0x304 4 5]).nw ∧ (hosting [.wr 0x304 4 5]).job = none ∧
    (hosting [.wr 0x304 4 5]).hostFault = none ∧
    (hostingBusy [.wr 0x304 4 5]).job ≠ none ∧ (hostingBusy [.wr 0x304 4 5]).hostFault = none := by decide +kernel

/-- The last result word (index 3) of RES2. -/
theorem witness_ResultWordAccess :
    BitVec.ofNat 12 (0x100 * 6 + 4 * 3) = (0x60C : Offset) ∧ 3 < 2 * (hostingBusy [.rd 0x60C 4]).nw ∧
    (hostingBusy [.rd 0x60C 4]).LegalConfig ∧ (hostingBusy [.rd 0x60C 4]).hostFault = none ∧
    (hosting [.wr 0x60C 4 1]).prog = .wr 0x60C 4 1 :: [] ∧ (hosting [.wr 0x60C 4 1]).LegalConfig := by decide +kernel

theorem witness_StatusAndCtrlWrites :
    (hostingBusy [.wr 0x00C 4 6]).hostFault = none ∧ (hostingBusy [.wr 0x00C 4 6]).prog = .wr 0x00C 4 6 :: [] ∧
    (hosting [.wr 0x008 4 1]).hostFault = none ∧ (hosting [.wr 0x008 4 1]).prog = .wr 0x008 4 1 :: [] ∧
    (hosting [.rd 0x008 4]).prog = .rd 0x008 4 :: [] := by decide +kernel

theorem witness_CommandWriteIsAccepted :
    (hosting [.wr 0x010 4 0x101]).hostFault = none ∧ (hosting [.wr 0x010 4 0x101]).job = none ∧
    (hosting [.wr 0x010 4 0x101]).prog = .wr 0x010 4 0x101 :: [] := by decide +kernel

/-- CMD, the first and the last operand word, CTRL and STATUS, while a command runs. -/
theorem witness_OverrunDropsTheWrite :
    ([(0x010 : Offset), 0x100, 0x304, 0x008, 0x00C].all fun off =>
      decide ((hostingBusy [.wr off 4 6]).hostFault = none) && (hostingBusy [.wr off 4 6]).busy &&
      decide ((hostingBusy [.wr off 4 6]).prog = [.wr off 4 6]) && decide (off.toNat % 4 = 0)) = true ∧
    (0x304 : Offset).toNat % 0x100 / 4 < (hostingBusy []).nw := by decide +kernel

theorem witness_IdCfgCmdAccess :
    (∀ op ∈ [HostOp.rd 0x000 4, .rd 0x004 4, .rd 0x010 4, .wr 0x000 4 1, .wr 0x004 4 1, .wr 0x010 4 1],
      (hosting [op]).LegalConfig ∧ (hosting [op]).hostFault = none ∧ (hosting [op]).prog = [op]) ∧
    (hosting [.wr 0x010 4 1]).job = none ∧ (hostingBusy [.wr 0x010 4 1]).job ≠ none := by decide +kernel

theorem witness_OnlyIllegalTransactionsFault :
    (hosting [.rd 0x000 2]).hostFault = none ∧ (hosting [.wr 0x011 1 1]).prog = .wr 0x011 1 1 :: [] ∧
    ¬(2 = 4 ∧ (0x000 : Offset).toNat % 4 = 0) ∧
    (hosting [.wr 0xFFC 4 1]).prog = .wr 0xFFC 4 1 :: [] ∧ (0xFFC : Offset).toNat % 4 = 0 ∧
    ({ running 0x00000001 97 0 0 [] with hostFault := some (.busError 2) } : State).hostFault ≠ none ∧
    ({ running 0x00000001 97 0 0 [] with hostFault := some (.busError 2) } : State).chosen = .engine ∧
    (running 0x00000001 97 0 0 []).job = some ⟨0x00000001, .exec, 0⟩ ∧ decode 0x00000001 = .legal .primeTest := by
  decide +kernel

theorem witness_OnlySomeWritesHaveEffects :
    (hosting [.rd 0x104 4]).hostFault = none ∧ (hosting [.rd 0x104 4]).prog = .rd 0x104 4 :: [] ∧
    (hostingBusy [.wr 0x400 4 1]).hostFault = none ∧ (hostingBusy [.wr 0x400 4 1]).prog = .wr 0x400 4 1 :: [] ∧
    ¬(0x100 ≤ (0x400 : Offset).toNat ∧ (0x400 : Offset).toNat ≤ 0x3FF) := by decide +kernel

theorem witness_WaitEndsWhenIdle :
    (hostingBusy [.wait]).hostFault = none ∧ (hostingBusy [.wait]).job ≠ none ∧
    (hosting [.wait]).hostFault = none ∧ (hosting [.wait]).job = none ∧ (hosting [.wait]).prog = .wait :: [] := by
  decide +kernel

/-- A host about to perform the two writes of `WROP OPC, -6` and then a WAIT. -/
def wropHost : State := hosting [.wr 0x300 4 0xFFFFFFFA, .wr 0x304 4 0xFFFFFFFF, .wait]

theorem witness_WropWritesTheWholeOperand :
    wropHost.LegalConfig ∧ wropHost.RegsFit ∧ wropHost.hostFault = none ∧ wropHost.job = none ∧
    wropHost.prog = (HostLine.wrop .c (-6)).expand wropHost.opw ++ [.wait] := by decide +kernel

theorem witness_PlatformAddressesSelectOffsets :
    ({ State.reset with base := 0x3000 } : State).LegalConfig ∧
    ({ State.reset with base := 0x3000 } : State).offsetAt 0x3FFC = some 0xFFC ∧
    ({ State.reset with base := 0x3000 } : State).offsetAt 0x2FFF = none ∧
    ({ State.reset with base := 0x3000 } : State).offsetAt 0x4000 = none := by decide +kernel

theorem witness_StepRunsTheDecodedCommand :
    (running 0x00000003 12 18 0 []).chosen = .engine ∧
    (running 0x00000003 12 18 0 []).job = some ⟨0x00000003, .exec, 0⟩ ∧ decode 0x00000003 = .legal .gcd ∧
    Instr.gcd.wellFormed = true := by decide +kernel

theorem witness_IllegalWordCompletes :
    (running 0x00000000 0 0 0 []).job = some ⟨0x00000000, .exec, 0⟩ ∧
    decode 0x00000000 = .illegal .unknownOpcode ∧ decode 0xFFFFFFFF = .illegal .reservedBits := by decide +kernel

theorem witness_IdleEngineHasNoStep :
    ({ State.reset with agenda := [.engine] } : State).chosen = .engine ∧
    ({ State.reset with agenda := [.engine] } : State).job = none := by decide +kernel

/-- Results at the ends of their ranges: 2^128 - 1 fits unsigned, 2^127 does not fit signed, -2^127 does. -/
theorem witness_CompletionWritesAllOrNothing :
    (Result.unsigned (2 ^ 128 - 1)).fits State.reset.rw = true ∧ (Result.unsigned (2 ^ 128)).fits State.reset.rw = false ∧
    (Result.signed (2 ^ 127)).fits State.reset.rw = false ∧ (Result.signed (-2 ^ 127)).fits State.reset.rw = true ∧
    (Result.unsigned 0).fits State.reset.rw = true ∧ ErrCode.domain ≠ .ok := by decide +kernel

/-- The hypothesis of the result statements of the one-step commands. -/
theorem witness_LegalConfig :
    (withOps 65 3233 17).LegalConfig ∧ (withOps 65 3233 17).uint .b = 3233 ∧ (withOps 65 0 17).uint .b = 0 := by
  decide +kernel

theorem witness_DrawStaysInItsRange :
    1 ≤ 1 ∧ (running 0x00000002 1 0 0 [9]).draws = 9 :: [] ∧ 10 ^ (1 - 1) ≤ 9 ∧ 9 ≤ 10 ^ 1 - 1 := by decide +kernel

/-- Digit counts 0 and 20 are refused and 1 and 19 accepted for OPW = 64; the draws 15 and 61 are rejected and accepted. -/
theorem witness_FindPrimeStep :
    (running 0x00000002 19 0 0 []).LegalConfig ∧
    ¬(1 ≤ (withOps 0 0 0).uint .a) ∧ ¬(10 ^ (withOps 20 0 0).uint .a - 1 < 2 ^ (withOps 20 0 0).opw) ∧
    1 ≤ (withOps 1 0 0).uint .a ∧ 10 ^ (withOps 19 0 0).uint .a - 1 < 2 ^ (withOps 19 0 0).opw ∧
    accept ((running 0x00000002 2 0 0 [15]).drawn 10 99) = false ∧
    accept ((running 0x00000002 2 0 0 [61]).drawn 10 99) = true := by decide +kernel

theorem witness_FindPrimeReturnsExactlyTheOddPrimes :
    (running 0x00000002 2 0 0 [61]).LegalConfig ∧ (running 0x00000002 2 0 0 [61]).busy = true ∧
    1 ≤ (running 0x00000002 2 0 0 [61]).uint .a ∧
    10 ^ (running 0x00000002 2 0 0 [61]).uint .a - 1 < 2 ^ (running 0x00000002 2 0 0 [61]).opw ∧
    (after (running 0x00000002 2 0 0 [61])).job = none := by decide +kernel

theorem witness_FindPrime_prime : Nat.Prime 61 ∧ 61 ≠ 2 ∧ 10 ^ (2 - 1) ≤ 61 ∧ 61 ≤ 10 ^ 2 - 1 := by norm_num

theorem witness_TraceLengthIsBounded : 12 < 2 ^ 4 ∧ 8 < 2 ^ 4 ∧ (trace 13 8).1.length = 6 := by decide +kernel

/-- A pair, and no pair; and, for the clauses that determine the pair, operands out of order, a zero operand, a trace of
two terms and a longer one (95_test_vectors.md V-SB). -/
theorem witness_BezoutSolvesOrNoSolutionExists :
    bezout 3 7 1 = some (-2, 1) ∧ bezout 12 18 7 = none ∧ bezout 0 0 5 = none ∧ bezout 0 0 0 = some (0, 0) ∧
    bezout 7 3 1 = some (1, -2) ∧ 7 % 3 ≠ 0 ∧ bezout 5 0 10 = some (2, 0) ∧ bezout 6 6 12 = some (0, 2) ∧ 6 % 6 = 0 := by
  decide +kernel

theorem witness_BezoutCoefficientsAreSmall : 0 < 3 ∧ 0 < 7 ∧ bezout 3 7 1 = some (-2, 1) := by decide +kernel

/-- d > 0, d = 0 and d < 0 with phi > 0. -/
theorem witness_NormAddsTheSmallestMultiple :
    norm 5 3120 = 5 ∧ norm 0 1 = 1 ∧ norm (-367) 3120 = 2753 ∧ norm (-3120) 3120 = 3120 := by decide +kernel

/-- A pair, and no pair. That no coefficient of an implementation's operands overflows is an obligation of its own, so the
clause on ERR_OVERFLOW is not reached from any operands. -/
theorem witness_SolveBezoutResult :
    (withOps 3 7 1).LegalConfig ∧ bezout ((withOps 3 7 1).uint .a) ((withOps 3 7 1).uint .b) ((withOps 3 7 1).sint .c) =
      some (-2, 1) ∧
    bezout ((withOps 12 18 7).uint .a) ((withOps 12 18 7).uint .b) ((withOps 12 18 7).sint .c) = none ∧
    0 < Nat.gcd 4 6 ∧ (0 < 5 ∧ (5 : Int) ∣ -10) := by decide +kernel

theorem witness_SolveBezoutSolvesTheEquation :
    (withOps 12 18 (2 ^ 64 - 6)).LegalConfig ∧
    ((Nat.gcd ((withOps 12 18 (2 ^ 64 - 6)).uint .a) ((withOps 12 18 (2 ^ 64 - 6)).uint .b) : Nat) : Int) ∣
      (withOps 12 18 (2 ^ 64 - 6)).sint .c ∧
    ¬((Nat.gcd ((withOps 12 18 7).uint .a) ((withOps 12 18 7).uint .b) : Nat) : Int) ∣ (withOps 12 18 7).sint .c := by
  decide +kernel

/-- Not coprime; coprime with phi > 0; and phi = 0 with e = 1. -/
theorem witness_ModInverseResult :
    Nat.gcd ((withOps 2 4 0).uint .a) ((withOps 2 4 0).uint .b) ≠ 1 ∧
    Nat.gcd ((withOps 17 3120 0).uint .a) ((withOps 17 3120 0).uint .b) = 1 ∧ 0 < (withOps 17 3120 0).uint .b ∧
    Nat.gcd ((withOps 1 0 0).uint .a) ((withOps 1 0 0).uint .b) = 1 ∧ (withOps 1 0 0).LegalConfig := by decide +kernel

theorem witness_ModInverseIsTheInverse :
    (withOps 65537 3120 0).LegalConfig ∧
    Nat.gcd ((withOps 65537 3120 0).uint .a) ((withOps 65537 3120 0).uint .b) = 1 ∧
    1 < (withOps 65537 3120 0).uint .b := by decide +kernel

/-- Digit counts 0, 1, 9 and 10 for OPW = 64. -/
theorem witness_GenKeysFirstPhase :
    (running 0x00000006 9 0 0 []).LegalConfig ∧
    (running 0x00000006 9 0 0 []).job = some ⟨0x00000006, .sampleP, 0⟩ ∧
    ¬(1 ≤ (withOps 0 0 0).uint .a) ∧ ¬((10 ^ (withOps 10 0 0).uint .a - 1) ^ 2 < 2 ^ (withOps 10 0 0).opw) ∧
    1 ≤ (withOps 1 0 0).uint .a ∧ (10 ^ (withOps 9 0 0).uint .a - 1) ^ 2 < 2 ^ (withOps 9 0 0).opw := by decide +kernel

/-- GEN_KEYS in SAMPLE_Q with p = 61. -/
def sampling (draws : List Nat) : State := after (running 0x00000006 2 0 0 (61 :: draws))

/-- A rejected q, an accepted q with a Bézout pair, and an accepted q without one (V-GK-3's primes). -/
theorem witness_GenKeysSecondPhase :
    (sampling [53]).LegalConfig ∧ (sampling [53]).job = some ⟨0x00000006, .sampleQ, 61⟩ ∧
    accept ((sampling [99]).drawn 10 99) = false ∧ accept ((sampling [53]).drawn 10 99) = true ∧
    (bezout 65537 ((61 - 1) * (53 - 1)) 1).isSome = true ∧ bezout 65537 ((917519 - 1) * (100003 - 1)) 1 = none := by
  decide +kernel

theorem witness_GenKeysFailsExactlyWhenEDividesPhi :
    (sampling [53]).Inv ∧ (sampling [53]).job = some ⟨0x00000006, .sampleQ, 61⟩ ∧
    decode 0x00000006 = .legal .genKeys ∧ accept ((sampling [53]).candidate ((sampling [53]).uint .a)) = true := by
  decide +kernel

/-- GEN_KEYS of six digits in SAMPLE_Q with p = 917519, about to draw q = 100003: 65537 divides p - 1 (V-GK-3). -/
theorem witness_GenKeys_domain :
    (after (running 0x00000006 6 0 0 [917519, 100003])).Inv ∧
    (after (running 0x00000006 6 0 0 [917519, 100003])).job = some ⟨0x00000006, .sampleQ, 917519⟩ ∧
    accept ((after (running 0x00000006 6 0 0 [917519, 100003])).drawn (10 ^ 5) (10 ^ 6 - 1)) = true ∧
    (after (running 0x00000006 6 0 0 [917519, 100003])).drawn (10 ^ 5) (10 ^ 6 - 1) = 100003 ∧
    65537 ∣ (917519 - 1) * (100003 - 1) := by decide +kernel

theorem witness_GenKeysLeavesAKey :
    (sampling [53]).Inv ∧
    (match exec .genKeys (sampling [53]) with
      | .next t => decide (t.job = none) && decide (t.err = 0) && decide (t.res0 = 3233)
      | _ => false) = true := by decide +kernel

theorem witness_ModexpIsThePower : 0 < 3233 ∧ modexp 65 17 3233 = 2790 ∧ modexp 0 0 5 = 1 := by decide +kernel

/-- The key of V-GK-1, encrypting 65. -/
theorem witness_DecryptUndoesEncrypt :
    Nat.Prime 61 ∧ Nat.Prime 53 ∧ 61 ≠ 53 ∧ 2753 * 65537 % ((61 - 1) * (53 - 1)) = 1 % ((61 - 1) * (53 - 1)) ∧
    65 < 61 * 53 := by norm_num

theorem witness_DecryptUndoesEncrypt_states :
    (withOps 65 3233 65537).LegalConfig ∧ (withOps 65 3233 65537).uint .a = 65 ∧
    (withOps 65 3233 65537).uint .b = 61 * 53 ∧ (withOps 65 3233 65537).uint .c = 65537 ∧
    (match exec .encrypt (withOps 65 3233 65537) with
      | .next t => decide ((withOps 2790 3233 2753).uint .a = t.res0.toNat)
      | _ => false) = true ∧
    (withOps 2790 3233 2753).LegalConfig ∧ (withOps 2790 3233 2753).uint .b = 61 * 53 ∧
    (withOps 2790 3233 2753).uint .c = 2753 := by decide +kernel

/-- A rejected draw (the command goes on), an error completion, and a success, for the statements about what an engine
step leaves unchanged. -/
theorem witness_EngineStepFrame :
    (match exec .findPrime (running 0x00000002 2 0 0 [15]) with
      | .next t => decide (t.job ≠ none) && decide (t.draws = [])
      | _ => false) = true ∧
    (match exec .encrypt (running 0x00000007 65 0 17 []) with
      | .next t => decide (t.err ≠ 0)
      | _ => false) = true := by decide +kernel

theorem witness_ExecCommandsCompleteInOneStep :
    (running 0x00000101 0 0 0 []).chosen = .engine ∧ (running 0x00000101 0 0 0 []).job = some ⟨0x00000101, .exec, 0⟩ ∧
    decode 0x00000101 ≠ .legal .findPrime ∧ decode 0x00000101 ≠ .legal .genKeys := by decide +kernel

theorem witness_ErrorsLeaveOperandsAndResults :
    (running 0x00000004 12 18 7 []).busy = true ∧
    (match engineStep (running 0x00000004 12 18 7 []) with
      | .next t => decide (t.busy = false) && decide (t.err ≠ 0)
      | _ => false) = true := by decide +kernel

theorem witness_UnreadOperandsDoNotMatter :
    Instr.genKeys ∈ [Instr.primeTest, .findPrime, .genKeys] ∧ Instr.modInverse ∈ [Instr.gcd, .modInverse] := by decide

theorem witness_InterruptFollowsDoneAndIe :
    (0x00000001 : Word).getLsbD 0 = true ∧ (0x00000002 : Word).getLsbD 1 = true := by decide

theorem witness_SamplingIsInvisible :
    (running 0x00000006 2 0 0 [61]).busy = true ∧
    (match engineStep (running 0x00000006 2 0 0 [61]) with
      | .next t => decide (t.busy = true)
      | _ => false) = true := by decide +kernel

theorem witness_OperandsHoldWhileBusy :
    (hostingBusy [.wr 0x100 4 5]).busy = true ∧ (hostingBusy [.wr 0x100 4 5]).chosen ≠ .reset := by decide +kernel

theorem witness_ResultsChangeOnlyAtSuccess :
    (after (running 0x00000001 97 0 0 [])).res0 ≠ (running 0x00000001 97 0 0 []).res0 ∧
    (after { running 0x00000001 97 0 0 [] with res0 := 6, agenda := [.reset] }).res0 ≠ 6 := by decide +kernel

/-- A command started by a CMD write and ended by an engine step and by a reset; DONE set by an engine step, and cleared by
a STATUS write, a CMD write and a reset; OVR set by a dropped write and cleared by a STATUS write; ERR set by an engine step
and cleared by a CMD write; LASTOP changed by a CMD write, IE by a CTRL write. -/
theorem witness_StatusChangesOnlyAsStated :
    (hosting [.wr 0x010 4 7]).busy = false ∧ (after (hosting [.wr 0x010 4 7])).busy = true ∧
    (running 0x00000001 97 0 0 []).busy = true ∧ (after (running 0x00000001 97 0 0 [])).busy = false ∧
    (after { running 0x00000001 97 0 0 [] with agenda := [.reset] }).busy = false ∧
    (after (running 0x00000001 97 0 0 [])).done = true ∧
    (after { hosting [.wr 0x00C 4 2] with done := true }).done = false ∧
    (after { hosting [.wr 0x010 4 7] with done := true }).done = false ∧
    (after { State.reset with done := true, agenda := [.reset] }).done = false ∧
    (after (hostingBusy [.wr 0x010 4 1])).ovr = true ∧
    (after { hosting [.wr 0x00C 4 4] with ovr := true }).ovr = false ∧
    (after (running 0x00000007 65 0 17 [])).err = 3 ∧
    (after { hosting [.wr 0x010 4 7] with err := 3 }).err = 0 ∧
    (after (hosting [.wr 0x010 4 7])).lastop = 7 ∧ (after (hosting [.wr 0x008 4 1])).ie = true := by decide +kernel

theorem witness_StepKeepsTheInvariant :
    State.reset.Inv ∧ (hostingBusy [.wr 0x010 4 1]).Inv ∧ (sampling [53]).Inv := by decide +kernel

/-! ### A fair run -/

/-- The run of PRIME_TEST of 97, from its acceptance on. -/
def fairRun : Nat → State
  | 0 => running 0x00000001 97 0 0 []
  | n + 1 => after (fairRun n)

theorem step_eq_after (s : State) : step s = .next (after s) := by
  obtain ⟨t, h, -⟩ := step_cases s
  simp only [after, h]

/-- With no command running and no host program left, no step starts a command. -/
theorem after_idle (s : State) (hj : s.job = none) (hp : s.prog = []) : (after s).job = none ∧ (after s).prog = [] := by
  obtain ⟨t, h, hc⟩ := step_cases s
  have ht : after s = t := by simp only [after, h]
  rw [ht]
  rcases hc with ⟨-, rfl⟩ | ⟨-, he⟩ | ⟨-, rfl⟩
  · have hs : s.advance.hostStep = s.advance := by
      unfold State.hostStep
      simp only [State.advance_prog, hp]
      split <;> rfl
    rw [hs]
    exact ⟨hj, hp⟩
  · simp only [engineStep, State.advance_job, hj, Host.Outcome.next.injEq] at he
    rw [← he]
    exact ⟨hj, hp⟩
  · exact ⟨rfl, hp⟩

theorem fairRun_idle (n : Nat) : (fairRun (n + 1)).job = none ∧ (fairRun (n + 1)).prog = [] := by
  induction n with
  | zero => decide +kernel
  | succ n ih => exact after_idle _ ih.1 ih.2

theorem fairRun_not_busy (n : Nat) : (fairRun (n + 1)).busy = false := by
  simp [State.busy, (fairRun_idle n).1]

/-- It is a run, both fairness assumptions hold of it, and a command runs in its first state. -/
theorem witness_FairRunsEndEveryCommand :
    IsRun fairRun ∧ EngineFair fairRun ∧ EntropyFair fairRun ∧
      (fairRun 0).job = some ⟨0x00000001, .exec, 0⟩ ∧ decode 0x00000001 ≠ .legal .findPrime := by
  refine ⟨fun n => step_eq_after _, fun n h => ?_, fun n h => ?_, by decide +kernel, by decide⟩
  · have := h (n + 1) (by omega)
    rw [fairRun_not_busy] at this
    cases this
  · obtain ⟨k, hk, -, hs⟩ := h 1
    obtain ⟨m, rfl⟩ : ∃ m, k = m + 1 := ⟨k - 1, by omega⟩
    simp [State.samples, (fairRun_idle m).1] at hs

end Sys2Proof.Tests
end

section
/-! The digit counts that FIND_PRIME and GEN_KEYS accept (00_scope.md R9, 40_prime.md R114, 42_keygen.md R161).

The model refuses a count above OPW before it computes the power, where the spec has no such test; and it finds DMAX_P
and DMAX_K by a search that starts at OPW. Both agree with the spec because a count that fits is at most OPW, and
because every count below one that fits fits too. -/

namespace Sys2Proof.Machine

/-- Below a bound, a downward closed predicate holds exactly up to its greatest solution. -/
theorem le_findGreatest_iff_of_antitone {P : Nat → Prop} [DecidablePred P] (hP : Antitone P) (h0 : P 0) (n d : Nat) :
    d ≤ Nat.findGreatest P n ↔ d ≤ n ∧ P d :=
  ⟨fun h => ⟨h.trans (Nat.findGreatest_le n), hP h (Nat.findGreatest_spec n.zero_le h0)⟩,
    fun ⟨hd, h⟩ => Nat.le_findGreatest hd h⟩

/-! ### The numbers of at most `d` digits -/

theorem sampleHi_mono : Monotone sampleHi := fun _ _ h =>
  Nat.sub_le_sub_right (Nat.pow_le_pow_right (by decide) h) 1

/-- A register that holds every number of `d` digits has at least `d` bits. -/
theorem le_opw_of_sampleHi_lt {opw d : Nat} (h : sampleHi d < 2 ^ opw) : d ≤ opw := by
  have h10 : 10 ^ d ≤ 2 ^ opw := by unfold sampleHi at h; omega
  have h2 : 2 ^ d ≤ 2 ^ opw := (Nat.pow_le_pow_left (by decide) d).trans h10
  exact (Nat.pow_le_pow_iff_right (by decide)).mp h2

/-- The same for a register that holds the product of any two of them. -/
theorem le_opw_of_sampleHi_sq_lt {opw d : Nat} (h : sampleHi d ^ 2 < 2 ^ opw) : d ≤ opw :=
  le_opw_of_sampleHi_lt ((Nat.le_self_pow (by decide) _).trans_lt h)

/-! ### The digit tests and their largest counts -/

theorem digitsOkP_iff {opw d : Nat} : digitsOkP opw d = true ↔ 1 ≤ d ∧ sampleHi d < 2 ^ opw := by
  have hle := le_opw_of_sampleHi_lt (opw := opw) (d := d)
  simp only [digitsOkP, sampleHi, Bool.and_eq_true, decide_eq_true_eq] at hle ⊢
  tauto

theorem digitsOkK_iff {opw d : Nat} : digitsOkK opw d = true ↔ 1 ≤ d ∧ sampleHi d ^ 2 < 2 ^ opw := by
  have hle := le_opw_of_sampleHi_sq_lt (opw := opw) (d := d)
  simp only [digitsOkK, sampleHi, Bool.and_eq_true, decide_eq_true_eq] at hle ⊢
  tauto

theorem le_dmaxP_iff {opw d : Nat} : d ≤ Config.dmaxP opw ↔ sampleHi d < 2 ^ opw :=
  (le_findGreatest_iff_of_antitone (P := fun d => sampleHi d < 2 ^ opw)
    (fun _ _ h => (sampleHi_mono h).trans_lt) (by simp [sampleHi]) opw d).trans
    (and_iff_right_of_imp le_opw_of_sampleHi_lt)

theorem le_dmaxK_iff {opw d : Nat} : d ≤ Config.dmaxK opw ↔ sampleHi d ^ 2 < 2 ^ opw :=
  (le_findGreatest_iff_of_antitone (P := fun d => sampleHi d ^ 2 < 2 ^ opw)
    (fun _ _ h => (Nat.pow_le_pow_left (sampleHi_mono h) 2).trans_lt) (by simp [sampleHi]) opw d).trans
    (and_iff_right_of_imp le_opw_of_sampleHi_sq_lt)

/-- R9 for the reference configuration: 19 nines fit in 64 bits and 20 do not. -/
theorem dmaxP_ref : Config.dmaxP 64 = 19 := by
  have fits : 19 ≤ Config.dmaxP 64 := le_dmaxP_iff.mpr (by decide)
  have next_overflows : ¬ 20 ≤ Config.dmaxP 64 := le_dmaxP_iff.not.mpr (by decide)
  omega

/-- R9 for the reference configuration: the square of 9 nines fits in 64 bits and that of 10 does not. -/
theorem dmaxK_ref : Config.dmaxK 64 = 9 := by
  have fits : 9 ≤ Config.dmaxK 64 := le_dmaxK_iff.mpr (by decide)
  have next_overflows : ¬ 10 ≤ Config.dmaxK 64 := le_dmaxK_iff.not.mpr (by decide)
  omega

/-- Settles O28: the model's bound of OPW on a digit count refuses no count the spec accepts, and its two searches find
the largest accepted counts. -/
theorem digitCountRanges : Obligations.DigitCountRanges :=
  ⟨fun _ _ => ⟨digitsOkP_iff, digitsOkK_iff,
      digitsOkP_iff.trans (and_congr_right' le_dmaxP_iff.symm),
      digitsOkK_iff.trans (and_congr_right' le_dmaxK_iff.symm)⟩,
    dmaxP_ref, dmaxK_ref⟩

end Sys2Proof.Machine
end

section
/-! The invariant holds at reset and every step of every agent keeps it (10_state.md R22, R23, R29, R31, R32, R34).

One lemma per operation of the block says that it keeps `State.Inv`; the steps of the agents are made of these
operations. An operation that touches none of the fields the invariant speaks of keeps it by unfolding alone. -/

namespace Sys2Proof.Machine

variable {s t : State}

/-! ### The invariant without a running command -/

/-- With no command running only the parameters, the registers and ERR matter. -/
theorem State.Inv.of_idle (hcfg : s.LegalConfig) (hregs : s.RegsFit) (herr : s.ErrLegal) (hj : s.job = none) :
    s.Inv :=
  ⟨hcfg, hregs, herr, by simp [State.busy, hj], by simp [State.jobOk, hj]⟩

/-- A reset needs legal parameters only: registers that hold zero are within every width. -/
theorem State.LegalConfig.resetBlock_inv (h : s.LegalConfig) : s.resetBlock.Inv :=
  have zero_fits {n m : Nat} : (0 : BitVec n).toNat < 2 ^ m := by simp
  .of_idle h ⟨zero_fits, zero_fits, zero_fits, zero_fits, zero_fits, zero_fits⟩ (Nat.zero_le 4) rfl

/-- Settles O6: the initial state is what a reset makes of itself. -/
theorem resetStateMeetsTheInvariant : Obligations.ResetStateMeetsTheInvariant :=
  State.LegalConfig.resetBlock_inv (s := State.reset) (by decide)

/-! ### Completion -/

theorem completedReg_toNat_lt {rw : Nat} {old : ResReg} (code : ErrCode) (r : Result) (h : old.toNat < 2 ^ rw) :
    (completedReg rw code old r).toNat < 2 ^ rw := by
  unfold completedReg
  split
  · exact encRes_toNat_lt rw r.value
  · exact h

theorem State.Inv.complete (h : s.Inv) (err : ErrCode) (rs : Results) : (s.complete err rs).Inv := by
  obtain ⟨hcfg, ⟨ha, hb, hc, h0, h1, h2⟩, -⟩ := h
  exact .of_idle hcfg
    ⟨ha, hb, hc, completedReg_toNat_lt _ _ h0, completedReg_toNat_lt _ _ h1, completedReg_toNat_lt _ _ h2⟩
    (ErrCode.code_toNat_le _) rfl

/-! ### The engine -/

theorem candidate_mem (s : State) {d : Nat} (hd : 1 ≤ d) :
    sampleLo d ≤ s.candidate d ∧ s.candidate d ≤ sampleHi d :=
  foldInto_mem _ _ _ (sampleLo_le_sampleHi d hd)

theorem State.genKeysQ_cases (s : State) (p : Nat) :
    (∃ err rs, s.genKeysQ p = s.afterDraw.complete err rs) ∨ s.genKeysQ p = s.afterDraw := by
  unfold State.genKeysQ State.keygenFinal
  dsimp only
  split
  · left
    split <;> exact ⟨_, _, rfl⟩
  · exact .inr rfl

/-- `exec_cases` with the conditions under which a first prime is saved: only GEN_KEYS saves one, and it is the accepted
draw of a legal digit count (42_keygen.md R160). -/
theorem exec_next_cases {i : Instr} (h : exec i s = .next t) :
    (∃ err rs, t = s.complete err rs) ∨ (∃ err rs, t = s.afterDraw.complete err rs) ∨ t = s.afterDraw ∨
      (i = .genKeys ∧ digitsOkK s.opw (s.uint .a) = true ∧ accept (s.candidate (s.uint .a)) = true ∧
        t = s.afterDraw.savePrime (s.candidate (s.uint .a))) := by
  obtain ⟨t', ht, hc⟩ := exec_cases i s
  cases ht.symm.trans h
  obtain hc | ⟨rfl | rfl, -⟩ := hc
  · exact .inl hc
  · simp only [exec, execFindPrime] at h
    split at h
    · split at h <;> cases h
      · exact .inr (.inl ⟨_, _, rfl⟩)
      · exact .inr (.inr (.inl rfl))
    · cases h
      exact .inl ⟨_, _, rfl⟩
  · simp only [exec, execGenKeys] at h
    split at h <;> cases h
    · exact .inr ((s.genKeysQ_cases _).imp_right .inl)
    · unfold State.genKeysP
      dsimp only
      split
      · split
        · exact .inr (.inr (.inr ⟨rfl, ‹_›, ‹_›, rfl⟩))
        · exact .inr (.inr (.inl rfl))
      · exact .inl ⟨_, _, rfl⟩

/-- A GEN_KEYS in SAMPLE_Q is coherent when its saved prime is an accepted number of a legal digit count. -/
theorem State.Inv.savePrime {j : Job} {p : Nat} (h : s.Inv) (hj : s.job = some j) (hd : decode j.word = .legal .genKeys)
    (hdig : digitsOkK s.opw (s.uint .a) = true) (hp : sampleLo (s.uint .a) ≤ p ∧ p ≤ sampleHi (s.uint .a))
    (hacc : accept p = true) : (s.savePrime p).Inv := by
  obtain ⟨hcfg, hregs, herr, hbusy, hjob⟩ := h
  have hlast : s.lastop = opField j.word := by
    simp only [State.jobOk, hj, Bool.and_eq_true, decide_eq_true_eq] at hjob
    exact hjob.1
  have hphase : (s.savePrime p).phaseOk ⟨j.word, .sampleQ, p⟩ = true := by
    have huint : (s.savePrime p).uint .a = s.uint .a := rfl
    simp [State.phaseOk, hd, huint, hdig, hp, hacc]
  have hbusy' : (s.savePrime p).BusyClear := fun _ => hbusy (by simp [State.busy, hj])
  have hjob' : (s.savePrime p).jobOk = true := by simp [State.jobOk, hj, hlast, hphase]
  exact ⟨hcfg, hregs, herr, hbusy', hjob'⟩

theorem State.Inv.exec {i : Instr} {j : Job} (h : s.Inv) (hj : s.job = some j) (hd : decode j.word = .legal i)
    (ht : exec i s = .next t) : t.Inv := by
  have hdraw : s.afterDraw.Inv := h
  obtain ⟨err, rs, rfl⟩ | ⟨err, rs, rfl⟩ | rfl | ⟨rfl, hdig, hacc, rfl⟩ := exec_next_cases ht
  · exact h.complete err rs
  · exact hdraw.complete err rs
  · exact hdraw
  · exact hdraw.savePrime hj hd hdig (candidate_mem s (digitsOkK_iff.mp hdig).1) hacc

theorem State.Inv.engineStep (h : s.Inv) (ht : engineStep s = .next t) : t.Inv := by
  unfold Machine.engineStep at ht
  split at ht
  · cases ht
    exact h
  · split at ht
    · exact h.exec ‹_› ‹_› ht
    · cases ht
      exact h.complete .illegal .unused

/-! ### The host -/

/-- A STATUS write only clears flags. -/
theorem State.Inv.writeStatus (h : s.Inv) (w : Word) : (s.writeStatus w).Inv := by
  obtain ⟨hcfg, hregs, herr, hbusy, hjob⟩ := h
  exact ⟨hcfg, hregs, herr, fun hb => ⟨by simp [(hbusy hb).1], (hbusy hb).2⟩, hjob⟩

theorem phaseOk_startPhase (s : State) (w : Word) : s.phaseOk ⟨w, startPhase w, 0⟩ = true := by
  cases hd : decode w with
  | illegal why => simp [State.phaseOk, startPhase, hd]
  | legal i => cases i <;> simp [State.phaseOk, startPhase, hd]

theorem State.Inv.acceptCmd (h : s.Inv) (w : Word) : (s.acceptCmd w).Inv := by
  obtain ⟨hcfg, hregs, -⟩ := h
  exact ⟨hcfg, hregs, Nat.zero_le 4, fun _ => ⟨rfl, rfl⟩, by simp [State.jobOk, phaseOk_startPhase]⟩

/-- A word of an operand register ends within OPW bits. -/
theorem State.Inv.setOp_setWord {i : Nat} (h : s.Inv) (hj : s.job = none) (r : OpName) (hi : i < s.nw) (w : Word) :
    (s.setOp r (setWord (s.op r) i w)).Inv := by
  obtain ⟨hcfg, ⟨ha, hb, hc, hres⟩, herr, -⟩ := h
  have hend : 32 * i + 32 ≤ s.opw := by unfold State.nw at hi; omega
  cases r with
  | a => exact .of_idle hcfg ⟨setWord_toNat_lt _ _ _ _ hend ha, hb, hc, hres⟩ herr hj
  | b => exact .of_idle hcfg ⟨ha, setWord_toNat_lt _ _ _ _ hend hb, hc, hres⟩ herr hj
  | c => exact .of_idle hcfg ⟨ha, hb, setWord_toNat_lt _ _ _ _ hend hc, hres⟩ herr hj

theorem State.Inv.writeWord (h : s.Inv) (off : Offset) (w : Word) : (s.writeWord off w).Inv := by
  obtain e | ⟨-, e⟩ | ⟨-, e⟩ | ⟨-, e⟩ | ⟨-, -, e⟩ | ⟨hb, r, i, hl, e⟩ := s.writeWord_cases off w <;> rw [e]
  · exact h
  · exact h
  · exact h.writeStatus w
  · exact h
  · exact h.acceptCmd w
  · obtain ⟨-, -, hi⟩ := locate_eq_op_iff.mp hl
    exact h.setOp_setWord (by simpa [State.busy] using hb) r hi w

theorem State.Inv.hostStep (h : s.Inv) : s.hostStep.Inv := by
  obtain e | ⟨off, -, e⟩ | ⟨off, rest, -, e | e⟩ | ⟨off, w, rest, -, -, -, e⟩ := s.hostStep_cases <;> rw [e]
  · exact h
  · exact h
  · exact h
  · exact h
  · exact h.writeWord off w

/-- Settles O58, by the agent that moves. -/
theorem stepKeepsTheInvariant : Obligations.StepKeepsTheInvariant := by
  intro s t h ht
  have hadv : s.advance.Inv := h
  obtain ⟨t', ht', hc⟩ := step_cases s
  cases ht'.symm.trans ht
  obtain ⟨-, rfl⟩ | ⟨-, he⟩ | ⟨-, rfl⟩ := hc
  · exact hadv.hostStep
  · exact hadv.engineStep he
  · exact h.1.resetBlock_inv

end Sys2Proof.Machine
end

section
/-! The bits of CTRL and STATUS: how a STATUS read lays them out (10_state.md R27), when irq follows them (R37), and
which steps change them (R26, R28 to R32). -/

namespace Sys2Proof.Machine

/-! ### What a STATUS read returns -/

theorem readWord_status (s : State) : s.readWord 0x00C = s.statusWord := rfl

/-- The fields of STATUS, lowest bit first, by the bits they fill. -/
theorem getLsbD_statusWord (s : State) {n : Nat} (hn : n < 32) :
    s.statusWord.getLsbD n =
      if n = 0 then s.busy
      else if n = 1 then s.done
      else if n = 2 then s.ovr
      else if 8 ≤ n ∧ n < 12 then s.err.getLsbD (n - 8)
      else if 16 ≤ n ∧ n < 24 then s.lastop.getLsbD (n - 16)
      else false := by
  simp only [State.statusWord, BitVec.getLsbD_append]
  interval_cases n <;> simp

/-- Settles O12. -/
theorem statusReadLayout : Obligations.StatusReadLayout :=
  ⟨fun s _ hn => readWord_status s ▸ getLsbD_statusWord s hn, by decide⟩

/-! ### The interrupt output -/

/-- Settles O53. -/
theorem interruptFollowsDoneAndIe : Obligations.InterruptFollowsDoneAndIe := fun s =>
  ⟨by simp [State.irq], fun _ _ => Bool.true_and s.ie, fun _ h => by simp [State.irq, h],
    fun _ h => by simp [State.irq, h], fun _ => Bool.false_and s.ie⟩

/-! ### What one step does to the control bits -/

/-- BUSY, DONE, OVR, ERR, LASTOP and IE. -/
def State.control (s : State) : Bool × Bool × Bool × Code × Byte × Bool :=
  (s.busy, s.done, s.ovr, s.err, s.lastop, s.ie)

theorem control_eq_iff {s t : State} :
    t.control = s.control ↔
      t.busy = s.busy ∧ t.done = s.done ∧ t.ovr = s.ovr ∧ t.err = s.err ∧ t.lastop = s.lastop ∧ t.ie = s.ie := by
  simp [State.control]

/-- What one step from `s` to `t` does to the control bits. -/
inductive ControlEvent (s t : State) : Prop where
  | kept (h : t.control = s.control)
  | reset (hc : s.chosen = .reset) (h : t.control = s.resetBlock.control)
  | completed (hc : s.chosen = .engine) (hb : s.busy = true) (err : ErrCode) (rs : Results)
      (h : t.control = (s.complete err rs).control)
  | overrun (hc : s.chosen = .host) (hb : s.busy = true) (h : t.control = s.overrun.control)
  | wroteCtrl (hc : s.chosen = .host) (data : Word) (rest : List HostOp) (hp : s.prog = .wr 0x008 4 data :: rest)
      (h : t.control = (s.writeCtrl data).control)
  | wroteStatus (hc : s.chosen = .host) (data : Word) (rest : List HostOp) (hp : s.prog = .wr 0x00C 4 data :: rest)
      (h : t.control = (s.writeStatus data).control)
  | accepted (hc : s.chosen = .host) (hb : s.busy = false) (data : Word) (rest : List HostOp)
      (hp : s.prog = .wr 0x010 4 data :: rest) (h : t.control = (s.acceptCmd data).control)

@[simp] theorem State.resetBlock_busy (s : State) : s.resetBlock.busy = false := rfl
@[simp] theorem State.complete_busy (s : State) (err : ErrCode) (rs : Results) : (s.complete err rs).busy = false := rfl
@[simp] theorem State.overrun_busy (s : State) : s.overrun.busy = s.busy := rfl
@[simp] theorem State.writeCtrl_busy (s : State) (w : Word) : (s.writeCtrl w).busy = s.busy := rfl
@[simp] theorem State.writeStatus_busy (s : State) (w : Word) : (s.writeStatus w).busy = s.busy := rfl
@[simp] theorem State.acceptCmd_busy (s : State) (w : Word) : (s.acceptCmd w).busy = true := rfl

theorem control_setOp (s : State) (r : OpName) (v : OpReg) : (s.setOp r v).control = s.control := by
  cases r <;> rfl

/-- The address map has CTRL, STATUS and CMD at one aligned offset each (20_memory.md R66). -/
theorem eq_offset_of_locate_control {nw : Nat} {off : Offset} {l : Loc} (n : Nat)
    (hl : (l, n) ∈ [(Loc.ctrl, 2), (.status, 3), (.cmd, 4)]) (ha : off.toNat % 4 = 0) (h : locate nw off = l) :
    off = BitVec.ofNat 12 (4 * n) := by
  rw [← locate_control n hl ha h, BitVec.ofNat_toNat, BitVec.setWidth_eq]

theorem controlEvent_of_hostStep {s : State} (hc : s.chosen = .host) : ControlEvent s s.advance.hostStep := by
  obtain e | ⟨off, -, e⟩ | ⟨off, rest, -, e | e⟩ | ⟨off, w, rest, -, hp, ha, e⟩ := s.advance.hostStep_cases <;> rw [e]
  · exact .kept rfl
  · exact .kept rfl
  · exact .kept rfl
  · exact .kept rfl
  obtain e | ⟨hl, e⟩ | ⟨hl, e⟩ | ⟨hb, e⟩ | ⟨hb, hl, e⟩ | ⟨-, r, i, -, e⟩ := s.advance.writeWord_cases off w <;> rw [e]
  · exact .kept rfl
  · obtain rfl := eq_offset_of_locate_control 2 (by simp) ha hl
    exact .wroteCtrl hc w rest hp rfl
  · obtain rfl := eq_offset_of_locate_control 3 (by simp) ha hl
    exact .wroteStatus hc w rest hp rfl
  · exact .overrun hc hb rfl
  · obtain rfl := eq_offset_of_locate_control 4 (by simp) ha hl
    exact .accepted hc hb w rest hp rfl
  · exact .kept (control_setOp s.advance r _)

/-- A draw that ends no command leaves the control bits alone, and so does GEN_KEYS's move to SAMPLE_Q. -/
theorem controlEvent_of_engineStep {s t : State} (hc : s.chosen = .engine) (ht : engineStep s.advance = .next t) :
    ControlEvent s t := by
  obtain ⟨t', ht', ⟨-, rfl⟩ | ⟨hb, hcases⟩⟩ := engineStep_cases s.advance <;> cases ht'.symm.trans ht
  · exact .kept rfl
  obtain ⟨err, rs, rfl⟩ | ⟨err, rs, rfl⟩ | rfl | ⟨p, rfl⟩ := hcases
  · exact .completed hc hb err rs rfl
  · exact .completed hc hb err rs rfl
  · exact .kept rfl
  · exact .kept (by simp [State.control, State.busy])

theorem controlEvent_of_step {s t : State} (ht : step s = .next t) : ControlEvent s t := by
  obtain ⟨t', ht', ⟨hc, rfl⟩ | ⟨hc, he⟩ | ⟨hc, rfl⟩⟩ := step_cases s <;> cases ht'.symm.trans ht
  · exact controlEvent_of_hostStep hc
  · exact controlEvent_of_engineStep hc he
  · exact .reset hc rfl

/-- Settles O57, by what the step does to the control bits. -/
theorem statusChangesOnlyAsStated : Obligations.StatusChangesOnlyAsStated := by
  intro s t ht
  cases controlEvent_of_step ht with
  | kept h => simp +contextual [control_eq_iff.mp h]
  | reset hc h => simp [control_eq_iff.mp h, hc]
  | completed hc hb err rs h => simp [control_eq_iff.mp h, hc, hb]
  | overrun hc hb h => simp +contextual [control_eq_iff.mp h, hc, hb]
  | wroteCtrl hc data rest hp h => simp +contextual [control_eq_iff.mp h, hc, hp]
  | wroteStatus hc data rest hp h => simp +contextual [control_eq_iff.mp h, hc, hp]
  | accepted hc hb data rest hp h => simp [control_eq_iff.mp h, hc, hb, hp]

end Sys2Proof.Machine
end

section
/-! The frame of the engine: what one engine step of any command leaves unchanged (10_state.md R22, R23;
60_exceptions.md R186). -/

namespace Sys2Proof.Machine

/-! ### Where RES0 to RES2 and STATUS stand -/

/-- A result word stands in one of the windows 0x400 to 0x6FF (20_memory.md R66). -/
theorem page_of_locateAt_eq_res {nw page k : Nat} {r : ResName} {i : Nat} (h : locateAt nw page k = .res r i) :
    4 ≤ page ∧ page ≤ 6 := by
  unfold locateAt Loc.opWord Loc.resWord at h
  split at h
  case h_1 | h_2 | h_3 | h_4 => split at h <;> cases h
  case h_5 | h_6 | h_7 => decide
  case h_8 => cases h

/-- A read outside the results and STATUS depends on OPW, the operands and IE alone. -/
theorem readWord_congr {s t : State} {off : Offset} (hw : t.opw = s.opw) (hop : t.op = s.op) (hie : t.ie = s.ie)
    (hres : ¬(0x400 ≤ off.toNat ∧ off.toNat ≤ 0x6FF)) (hst : ¬(0x00C ≤ off.toNat ∧ off.toNat ≤ 0x00F)) :
    t.readWord off = s.readWord off := by
  have hnw : t.nw = s.nw := congrArg (· / 32) hw
  simp only [State.readWord, hnw]
  cases hl : locate s.nw off with
  | status =>
    have := locateAt_control 3 (by simp) hl
    omega
  | res r i =>
    have := page_of_locateAt_eq_res hl
    omega
  | cfg => simp only [State.cfgWord, hnw]
  | ctrl => simp only [State.ctrlWord, hie]
  | op r i => simp only [hop]
  | id | cmd | reserved => rfl

/-! ### The frame of an engine step -/

variable {i : Instr} {s t : State}

/-- The destinations of an engine step are RES0 to RES2, DONE, ERR, JOB and the inputs of the entropy source. -/
theorem exec_destinations (h : exec i s = .next t) :
    t = { s with
      res0 := t.res0, res1 := t.res1, res2 := t.res2, done := t.done, err := t.err, job := t.job
      draws := t.draws, drawCount := t.drawCount } := by
  obtain ⟨err, rs, rfl⟩ | ⟨err, rs, rfl⟩ | rfl | ⟨-, -, -, rfl⟩ := exec_next_cases h <;> rfl

/-- So a step keeps whatever a view of the state shows that looks at none of them. -/
theorem exec_keeps {α : Type} (view : State → α) (h : exec i s = .next t)
    (hview : ∀ r0 r1 r2 d e j ds n, view { s with
      res0 := r0, res1 := r1, res2 := r2, done := d, err := e, job := j, draws := ds, drawCount := n } = view s := by
        intros; rfl) :
    view t = view s :=
  (congrArg view (exec_destinations h)).trans (hview ..)

/-- Only a completion writes the results, DONE and ERR. -/
theorem exec_keeps_results_of_running (h : exec i s = .next t) (hj : t.job ≠ none) :
    t.res0 = s.res0 ∧ t.res1 = s.res1 ∧ t.res2 = s.res2 ∧ t.done = s.done ∧ t.err = s.err := by
  obtain ⟨err, rs, rfl⟩ | ⟨err, rs, rfl⟩ | rfl | ⟨-, -, -, rfl⟩ := exec_next_cases h
  · exact absurd rfl hj
  · exact absurd rfl hj
  · exact ⟨rfl, rfl, rfl, rfl, rfl⟩
  · exact ⟨rfl, rfl, rfl, rfl, rfl⟩

/-- A completion that records an error writes no result (60_exceptions.md R186). -/
theorem complete_keeps_results_of_error (s : State) {err : ErrCode} {rs : Results} (h : (s.complete err rs).err ≠ 0) :
    (s.complete err rs).res0 = s.res0 ∧ (s.complete err rs).res1 = s.res1 ∧ (s.complete err rs).res2 = s.res2 := by
  have hcode : completionCode s.rw err rs ≠ .ok := (ErrCode.code_eq_zero_iff _).not.mp h
  simp [completedReg, hcode]

theorem exec_keeps_results_of_error (h : exec i s = .next t) (herr : t.err ≠ 0) :
    t.res0 = s.res0 ∧ t.res1 = s.res1 ∧ t.res2 = s.res2 := by
  obtain ⟨err, rs, rfl⟩ | ⟨err, rs, rfl⟩ | rfl | ⟨-, -, -, rfl⟩ := exec_next_cases h
  · exact complete_keeps_results_of_error s herr
  · exact complete_keeps_results_of_error s.afterDraw herr
  · exact ⟨rfl, rfl, rfl⟩
  · exact ⟨rfl, rfl, rfl⟩

theorem exec_keeps_draws (h : exec i s = .next t) (hf : i ≠ .findPrime) (hg : i ≠ .genKeys) :
    t.draws = s.draws ∧ t.drawCount = s.drawCount := by
  obtain ⟨t', ht', ⟨err, rs, rfl⟩ | ⟨hi, -⟩⟩ := exec_cases i s
  · cases ht'.symm.trans h
    exact ⟨rfl, rfl⟩
  · exact absurd hi (not_or.mpr ⟨hf, hg⟩)

/-- Settles O49. -/
theorem engineStepFrame : Obligations.EngineStepFrame := fun _ _ _ h =>
  ⟨exec_keeps State.opa h, exec_keeps State.opb h, exec_keeps State.opc h, exec_keeps State.ie h,
    exec_keeps State.ovr h, exec_keeps State.lastop h, exec_keeps State.opw h, exec_keeps State.base h,
    exec_keeps State.prog h, exec_keeps State.seen h, exec_keeps State.hostFault h, exec_keeps State.agenda h,
    exec_keeps State.turn h, exec_keeps_results_of_running h, exec_keeps_results_of_error h, exec_keeps_draws h,
    fun _ => readWord_congr (exec_keeps State.opw h) (exec_keeps State.op h) (exec_keeps State.ie h)⟩

end Sys2Proof.Machine
end

section
/-! Command words as bytes: which bytes decode to a command (20_memory.md R64, 30_encoding.md R91, R92, R98).

Two questions are settled apart: four bytes are the little-endian layout of exactly one word, and a word decodes to a
command exactly when it is that command's word. -/

namespace Sys2Proof

/-! ### The decoder of words -/

theorem encoding_statement (i : Instr) : Laws.Encoding.Statement i := by
  cases i
  exacts [Laws.Encoding.primeTest, Laws.Encoding.findPrime, Laws.Encoding.gcd, Laws.Encoding.solveBezout,
    Laws.Encoding.modInverse, Laws.Encoding.genKeys, Laws.Encoding.encrypt, Laws.Encoding.decrypt]

theorem decode_encode (i : Instr) : decode (encode i) = .legal i := by
  obtain ⟨-, hdecode, -⟩ := encoding_statement i
  exact hdecode

/-- Each command is selected by one number only (30_encoding.md R91). -/
theorem eq_encode_of_decodeOp {op : Nat} {i : Instr} (h : decodeOp op = some i) : op = (encode i).toNat := by
  unfold decodeOp at h
  split at h <;> cases h <;> rfl

/-- A word is its fields RSVD and OP (30_encoding.md R90). -/
theorem toNat_eq_fields (w : Word) : w.toNat = 2 ^ 8 * (rsvdField w).toNat + (opField w).toNat := by
  simp only [rsvdField, opField, BitVec.extractLsb'_toNat, Nat.shiftRight_eq_div_pow]
  omega

/-- A word decodes to a command exactly when it is that command's word (30_encoding.md R91, R92). -/
theorem decode_eq_legal_iff {w : Word} {i : Instr} : decode w = .legal i ↔ w = encode i := by
  constructor
  · intro h
    unfold decode at h
    split at h
    next hrsvd =>
      split at h <;> cases h
      next hop =>
        have hw := toNat_eq_fields w
        rw [hrsvd, eq_encode_of_decodeOp hop] at hw
        exact BitVec.eq_of_toNat_eq (hw.trans (Nat.zero_add _))
    next => cases h
  · rintro rfl
    exact decode_encode i

/-! ### Words as bytes -/

theorem toNat_append_byte {n : Nat} (x : BitVec n) (b : Byte) : (x ++ b).toNat = 2 ^ 8 * x.toNat + b.toNat := by
  rw [BitVec.toNat_append, ← Nat.shiftLeft_add_eq_or_of_lt b.isLt, Nat.shiftLeft_eq, Nat.mul_comm]

theorem toNat_extract_byte (w : Word) (k : Nat) : (w.extractLsb' k 8).toNat = w.toNat / 2 ^ k % 2 ^ 8 := by
  rw [BitVec.extractLsb'_toNat, Nat.shiftRight_eq_div_pow]

/-- The byte at the lowest offset is the least significant (20_memory.md R64). -/
theorem toNat_wordOfBytes (b0 b1 b2 b3 : Byte) :
    (wordOfBytes b0 b1 b2 b3).toNat = b0.toNat + 2 ^ 8 * b1.toNat + 2 ^ 16 * b2.toNat + 2 ^ 24 * b3.toNat := by
  simp only [wordOfBytes, toNat_append_byte]
  omega

theorem wordOfBytes_extract (w : Word) :
    wordOfBytes (w.extractLsb' 0 8) (w.extractLsb' 8 8) (w.extractLsb' 16 8) (w.extractLsb' 24 8) = w := by
  apply BitVec.eq_of_toNat_eq
  simp only [toNat_wordOfBytes, toNat_extract_byte]
  omega

theorem bytesOfWord_wordOfBytes (b0 b1 b2 b3 : Byte) : bytesOfWord (wordOfBytes b0 b1 b2 b3) = [b0, b1, b2, b3] := by
  simp only [bytesOfWord, List.cons.injEq, and_true, ← BitVec.toNat_inj, toNat_extract_byte, toNat_wordOfBytes]
  omega

/-- The byte decoder takes exactly one word and gives its verdict (30_encoding.md R98). -/
theorem decodeBytes_eq_some_iff {bytes rest : List Byte} {v : Verdict} :
    decodeBytes bytes = some (v, rest) ↔ ∃ w, bytes = bytesOfWord w ++ rest ∧ decode w = v := by
  constructor
  · intro h
    unfold decodeBytes at h
    split at h <;> cases h
    next b0 b1 b2 b3 => exact ⟨wordOfBytes b0 b1 b2 b3, by simp [bytesOfWord_wordOfBytes], rfl⟩
  · rintro ⟨w, rfl, rfl⟩
    simp [bytesOfWord, decodeBytes, wordOfBytes_extract]

/-- Settles O3: the bytes are those of one word, and that word is the command's. -/
theorem byteDecodeAgreesWithEncode : Obligations.ByteDecodeAgreesWithEncode := by
  intro bytes rest i _
  simp only [decodeBytes_eq_some_iff, decode_eq_legal_iff, exists_eq_right]

end Sys2Proof
end

section
/-! The register window as the host sees it: what a legal transaction does at each kind of offset (20_memory.md R61 to
R73).

A legal host step is a read or a write of one word (`State.hostStep_rd`, `State.hostStep_wr`), so each statement comes
down to what stands at its offset and what `State.readWord` and `State.writeWord` do there. -/

namespace Sys2Proof.Machine

variable {s : State} {off : Offset} {w : Word} {rest : List HostOp} {i : Nat}

/-! ### What stands at an offset -/

/-- The reserved places of the address map (20_memory.md R67). -/
theorem locateAt_eq_reserved_iff {nw page : Nat} :
    locateAt nw page i = .reserved ↔
      (page = 0 ∧ 5 ≤ i) ∨ (1 ≤ page ∧ page ≤ 3 ∧ nw ≤ i) ∨ (4 ≤ page ∧ page ≤ 6 ∧ 2 * nw ≤ i) ∨ 7 ≤ page := by
  match page with
  | 0 =>
    match i with
    | 0 | 1 | 2 | 3 | 4 => simp [locateAt]
    | _ + 5 => simp [locateAt]
  | 1 | 2 | 3 => simp [locateAt, Loc.opWord]
  | 4 | 5 | 6 => simp [locateAt, Loc.resWord]
  | _ + 7 => simp [locateAt]

theorem State.LegalConfig.nw_bounds (h : s.LegalConfig) : 2 ≤ s.nw ∧ s.nw ≤ 32 := by
  obtain ⟨hlo, hhi, hw, -⟩ := h.bounds
  omega

theorem State.LegalConfig.locate_opOffset (h : s.LegalConfig) (r : OpName) (hi : i < s.nw) :
    locate s.nw (opOffset r i) = .op r i :=
  Machine.locate_opOffset r hi h.nw_bounds.2

theorem State.LegalConfig.locate_resOffset (h : s.LegalConfig) (r : ResName) (hi : i < 2 * s.nw) :
    locate s.nw (resOffset r i) = .res r i :=
  Machine.locate_resOffset r hi h.nw_bounds.2

theorem opOffset_aligned (r : OpName) (i : Nat) : (opOffset r i).toNat % 4 = 0 := by
  cases r <;> simp only [opOffset, BitVec.toNat_ofNat] <;> omega

theorem resOffset_aligned (r : ResName) (i : Nat) : (resOffset r i).toNat % 4 = 0 := by
  cases r <;> simp only [resOffset, BitVec.toNat_ofNat] <;> omega

/-! ### Reads -/

theorem readWord_opOffset (h : s.LegalConfig) (r : OpName) (hi : i < s.nw) :
    s.readWord (opOffset r i) = getWord (s.op r) i := by
  simp only [State.readWord, h.locate_opOffset r hi]

theorem readWord_resOffset (h : s.LegalConfig) (r : ResName) (hi : i < 2 * s.nw) :
    s.readWord (resOffset r i) = getWord (s.res r) i := by
  simp only [State.readWord, h.locate_resOffset r hi]

theorem readWord_reserved (h : locate s.nw off = .reserved) : s.readWord off = 0 := by
  simp only [State.readWord, h]

theorem ctrlWord_eq_ite (s : State) : s.ctrlWord = if s.ie then 1 else 0 := by
  unfold State.ctrlWord
  cases s.ie <;> rfl

/-! ### Writes -/

/-- Only CTRL, STATUS, CMD and the operand words can be written (20_memory.md R73). -/
theorem writeWord_eq_self (hctrl : locate s.nw off ≠ .ctrl) (hstatus : locate s.nw off ≠ .status)
    (hcmd : locate s.nw off ≠ .cmd) (hop : ∀ r i, locate s.nw off ≠ .op r i) : s.writeWord off w = s := by
  cases hl : locate s.nw off with
  | ctrl => exact absurd hl hctrl
  | status => exact absurd hl hstatus
  | cmd => exact absurd hl hcmd
  | op r i => exact absurd hl (hop r i)
  | id | cfg | res | reserved => simp only [State.writeWord, hl]

theorem writeWord_reserved (h : locate s.nw off = .reserved) : s.writeWord off w = s :=
  writeWord_eq_self (by simp [h]) (by simp [h]) (by simp [h]) (by simp [h])

theorem writeWord_resOffset (h : s.LegalConfig) (r : ResName) (hi : i < 2 * s.nw) :
    s.writeWord (resOffset r i) w = s := by
  have hl := h.locate_resOffset r hi
  exact writeWord_eq_self (by simp [hl]) (by simp [hl]) (by simp [hl]) (by simp [hl])

theorem busy_eq_false_iff : s.busy = false ↔ s.job = none := Option.isSome_eq_false_iff.trans Option.isNone_iff_eq_none

theorem busy_eq_true_iff : s.busy = true ↔ s.job ≠ none := Option.isSome_iff_ne_none

theorem writeWord_opOffset_idle (h : s.LegalConfig) (r : OpName) (hi : i < s.nw) (hj : s.job = none) :
    s.writeWord (opOffset r i) w = s.setOp r (setWord (s.op r) i w) := by
  simp [State.writeWord, h.locate_opOffset r hi, busy_eq_false_iff.mpr hj]

theorem writeWord_opOffset_busy (h : s.LegalConfig) (r : OpName) (hi : i < s.nw) (hj : s.job ≠ none) :
    s.writeWord (opOffset r i) w = s.overrun := by
  simp [State.writeWord, h.locate_opOffset r hi, busy_eq_true_iff.mpr hj]

theorem writeWord_cmd_idle (hj : s.job = none) : s.writeWord 0x010 w = s.acceptCmd w := by
  simp [State.writeWord, busy_eq_false_iff.mpr hj]

theorem writeWord_cmd_busy (hj : s.job ≠ none) : s.writeWord 0x010 w = s.overrun := by
  simp [State.writeWord, busy_eq_true_iff.mpr hj]

/-- No write reaches the host's own fields. -/
@[simp] theorem writeWord_hostFault (s : State) (off : Offset) (w : Word) :
    (s.writeWord off w).hostFault = s.hostFault := by
  obtain e | ⟨-, e⟩ | ⟨-, e⟩ | ⟨-, e⟩ | ⟨-, -, e⟩ | ⟨-, r, i, -, e⟩ := s.writeWord_cases off w <;> simp [e]

/-! ### The wide registers -/

/-- A register of `k` words is negative as two's complement exactly when bit 31 of its highest word is set
(20_memory.md R65). -/
theorem toInt_setWidth_neg_iff {n m k : Nat} (x : BitVec n) (hm : m = 32 * k) (hk : 0 < k) :
    (x.setWidth m).toInt < 0 ↔ (getWord x (k - 1)).getLsbD 31 = true := by
  have hbit : 32 * (k - 1) + 31 = m - 1 := by omega
  have hlt : m - 1 < m := by omega
  have hmsb : (x.setWidth m).msb = (getWord x (k - 1)).getLsbD 31 := by
    rw [getLsbD_getWord, hbit, BitVec.msb_eq_getLsbD_last, BitVec.getLsbD_setWidth, decide_eq_true hlt]
    rfl
  rw [← hmsb, BitVec.msb_eq_toInt, decide_eq_true_iff]

theorem op_toInt_neg_iff_readWord (h : s.LegalConfig) (r : OpName) :
    ((s.op r).setWidth s.opw).toInt < 0 ↔ (s.readWord (opOffset r (s.nw - 1))).getLsbD 31 = true := by
  obtain ⟨-, -, hopw, -⟩ := h.bounds
  obtain ⟨hnw, -⟩ := h.nw_bounds
  rw [readWord_opOffset h r (by omega)]
  exact toInt_setWidth_neg_iff _ hopw (by omega)

theorem res_toInt_neg_iff_readWord (h : s.LegalConfig) (r : ResName) :
    ((s.res r).setWidth s.rw).toInt < 0 ↔ (s.readWord (resOffset r (2 * s.nw - 1))).getLsbD 31 = true := by
  obtain ⟨-, -, hopw, -⟩ := h.bounds
  obtain ⟨hnw, -⟩ := h.nw_bounds
  rw [readWord_resOffset h r (by omega)]
  exact toInt_setWidth_neg_iff _ (by unfold State.rw; omega) (by omega)

/-- Settles O7. -/
theorem wideRegistersAreReadWordByWord : Obligations.WideRegistersAreReadWordByWord := fun _ h =>
  ⟨fun _ hi => ⟨readWord_opOffset h .a hi, readWord_opOffset h .b hi, readWord_opOffset h .c hi⟩,
    fun _ hi => ⟨readWord_resOffset h .r0 hi, readWord_resOffset h .r1 hi, readWord_resOffset h .r2 hi⟩,
    op_toInt_neg_iff_readWord h .c, res_toInt_neg_iff_readWord h .r0, res_toInt_neg_iff_readWord h .r1⟩

/-! ### Reserved offsets and result words -/

/-- Settles O9. -/
theorem reservedOffsetsReadZeroIgnoreWrites : Obligations.ReservedOffsetsReadZeroIgnoreWrites := by
  intro s off data rest hf ha hoff
  have hl : locate s.nw off = .reserved := locateAt_eq_reserved_iff.mpr (by omega)
  exact ⟨fun hp => by rw [State.hostStep_rd hf hp ha, readWord_reserved hl],
    fun hp => by rw [State.hostStep_wr hf hp ha, writeWord_reserved hl]⟩

theorem offset_eq_resOffset {k : Nat} {r : ResName} (h : (k, r) ∈ [(4, ResName.r0), (5, .r1), (6, .r2)]) (i : Nat) :
    BitVec.ofNat 12 (0x100 * k + 4 * i) = resOffset r i := by
  simp only [List.mem_cons, Prod.mk.injEq, List.not_mem_nil, or_false] at h
  obtain ⟨rfl, rfl⟩ | ⟨rfl, rfl⟩ | ⟨rfl, rfl⟩ := h <;> rfl

/-- Settles O11. -/
theorem resultWordAccess : Obligations.ResultWordAccess := by
  intro s i data rest h hf hi k r hkr
  dsimp only
  rw [offset_eq_resOffset hkr i]
  have ha := resOffset_aligned r i
  exact ⟨fun hp => by rw [State.hostStep_rd hf hp ha, readWord_resOffset h r hi, getWord],
    fun hp => by rw [State.hostStep_wr hf hp ha, writeWord_resOffset h r hi]⟩

/-! ### Operand words -/

theorem offset_eq_opOffset {k : Nat} {r : OpName} (h : (k, r) ∈ [(1, OpName.a), (2, .b), (3, .c)]) (i : Nat) :
    BitVec.ofNat 12 (0x100 * k + 4 * i) = opOffset r i := by
  simp only [List.mem_cons, Prod.mk.injEq, List.not_mem_nil, or_false] at h
  obtain ⟨rfl, rfl⟩ | ⟨rfl, rfl⟩ | ⟨rfl, rfl⟩ := h <;> rfl

/-- Settles O10: the value a write leaves is `setWord`'s, whose bits are known. -/
theorem operandWordAccess : Obligations.OperandWordAccess := by
  intro s i data rest h hf hi k r hkr
  dsimp only
  rw [offset_eq_opOffset hkr i]
  have ha := opOffset_aligned r i
  refine ⟨fun hp => ?_, fun hp hj => ⟨setWord (s.op r) i data, ?_, fun b => getLsbD_setWord _ _ _ _⟩, fun hp hj => ?_⟩
  · rw [State.hostStep_rd hf hp ha, readWord_opOffset h r hi, getWord]
  · rw [State.hostStep_wr hf hp ha, writeWord_opOffset_idle h r hi hj]
  · rw [State.hostStep_wr hf hp ha, writeWord_opOffset_busy h r hi hj, State.overrun]

/-! ### Which transactions fault, and which have an effect -/

theorem hostStep_of_illegal_access {size : Nat} (hf : s.hostFault = none)
    (hp : s.prog = .rd off size :: rest ∨ s.prog = .wr off size w :: rest) (ha : ¬(size = 4 ∧ off.toNat % 4 = 0)) :
    s.hostStep = s.busError off := by
  have hacc : WellFormed.access off size ≠ true := WellFormed.access_iff.not.mpr ha
  obtain hp | hp := hp <;> simp [State.hostStep, hf, hp, State.transact, hacc]

/-- Settles O17. -/
theorem onlyIllegalTransactionsFault : Obligations.OnlyIllegalTransactionsFault := by
  intro s off size data rest
  refine ⟨fun hf hp => ⟨hostStep_of_illegal_access hf hp, ?_⟩, State.hostStep_stopped, fun _ hc j i hj hd => ?_⟩
  · rintro ⟨rfl, ha⟩
    obtain hp | hp := hp
    · simp [State.hostStep_rd hf hp ha, hf]
    · simp [State.hostStep_wr hf hp ha, hf]
  · simp [step, agentStep, hc, engineStep, hj, hd]

/-- Settles O18: the offsets of the address map at which a write acts are those the statement excepts. -/
theorem onlySomeWritesHaveEffects : Obligations.OnlySomeWritesHaveEffects := by
  intro s off data rest hf ha
  refine ⟨fun hp => ?_, fun hp hcmd hstatus hctrl hop => ?_⟩
  · rw [State.hostStep_rd hf hp ha]
    exact ⟨rfl, fun _ => rfl⟩
  · have hnop (r : OpName) (i : Nat) : locate s.nw off ≠ .op r i := fun hl => by
      obtain ⟨hpage, rfl, hi⟩ := locate_eq_op_iff.mp hl
      have hrange : 1 ≤ opPage r ∧ opPage r ≤ 3 := by cases r <;> decide
      exact hop ⟨by omega, by omega, hi⟩
    rw [State.hostStep_wr hf hp ha, writeWord_eq_self
      (fun hl => hctrl (eq_offset_of_locate_control 2 (by simp) ha hl))
      (fun hl => hstatus (eq_offset_of_locate_control 3 (by simp) ha hl))
      (fun hl => hcmd (eq_offset_of_locate_control 4 (by simp) ha hl)) hnop]

/-! ### The control registers -/

/-- Settles O13. -/
theorem statusAndCtrlWrites : Obligations.StatusAndCtrlWrites := by
  intro s data rest hf
  refine ⟨fun hp => ?_, fun hp => State.hostStep_wr hf hp rfl, fun hp => ?_⟩
  · have hclear (flag bit : Bool) : (flag && !bit) = if bit then false else flag := by cases bit <;> simp
    rw [State.hostStep_wr hf hp rfl, ← hclear, ← hclear]
    rfl
  · rw [State.hostStep_rd hf hp rfl, ← ctrlWord_eq_ite]
    rfl

/-- Settles O16. -/
theorem idCfgCmdAccess : Obligations.IdCfgCmdAccess := by
  intro s data rest _ hf
  refine ⟨fun hp => State.hostStep_rd hf hp rfl, fun hp => State.hostStep_rd hf hp rfl,
    fun hp => State.hostStep_rd hf hp rfl, fun hp => State.hostStep_wr hf hp rfl,
    fun hp => State.hostStep_wr hf hp rfl, fun hp => ⟨fun hj => ?_, fun hj => ?_⟩⟩
  · rw [State.hostStep_wr hf hp rfl, writeWord_cmd_idle hj]
    rfl
  · rw [State.hostStep_wr hf hp rfl, writeWord_cmd_busy hj]
    rfl

/-! ### Platform addresses -/

theorem offsetAt_eq_some_iff {addr : Nat} :
    s.offsetAt addr = some off ↔
      s.base ≤ addr ∧ addr < s.base + Config.windowBytes ∧ BitVec.ofNat 12 addr = off := by
  simp [State.offsetAt, and_assoc]

theorem offsetAt_eq_none_iff {addr : Nat} :
    s.offsetAt addr = none ↔ addr < s.base ∨ s.base + Config.windowBytes ≤ addr := by
  simp only [State.offsetAt, ite_eq_right_iff, reduceCtorEq, imp_false, not_and_or, not_le, not_lt]

/-- From a BASE that is a multiple of 4 KiB, bits [11:0] of an address in the window are its distance from BASE
(20_memory.md R63). -/
theorem offsetAt_eq_some_iff_platformAddr (h : s.LegalConfig) {addr : Nat} :
    s.offsetAt addr = some off ↔ addr = s.platformAddr off := by
  obtain ⟨-, -, -, hbase⟩ := h.bounds
  have hoff := off.isLt
  rw [offsetAt_eq_some_iff, State.platformAddr, Config.windowBytes, ← BitVec.toNat_inj, BitVec.toNat_ofNat]
  omega

/-- Settles O21. -/
theorem platformAddressesSelectOffsets : Obligations.PlatformAddressesSelectOffsets := fun _ h =>
  ⟨fun _ => (offsetAt_eq_some_iff_platformAddr h).mpr rfl, fun _ _ => (offsetAt_eq_some_iff_platformAddr h).mp,
    fun _ => offsetAt_eq_none_iff⟩

end Sys2Proof.Machine
end

section
/-! Command words: what the decoder says of every 32-bit word, by its fields RSVD and OP (30_encoding.md R90 to R92,
R97). -/

namespace Sys2Proof

variable {w : Word} {i : Instr}

/-- The opcodes in use are 1 to 8 (30_encoding.md R91). -/
theorem decodeOp_eq_none_iff {op : Nat} : decodeOp op = none ↔ ¬(1 ≤ op ∧ op ≤ 8) := by
  match op with
  | 0 | 1 | 2 | 3 | 4 | 5 | 6 | 7 | 8 => decide
  | _ + 9 => simp [decodeOp]

theorem decode_of_decodeOp_eq_some (hr : rsvdField w = 0) (ho : decodeOp (opField w).toNat = some i) :
    decode w = .legal i := by
  simp only [decode, hr, ho, if_true]

/-- RSVD is zero and OP is not in the table (30_encoding.md R97). -/
theorem decode_of_unknownOpcode (hr : rsvdField w = 0) (ho : ¬(1 ≤ (opField w).toNat ∧ (opField w).toNat ≤ 8)) :
    decode w = .illegal .unknownOpcode := by
  simp only [decode, hr, decodeOp_eq_none_iff.mpr ho, if_true]

/-- A bit of RSVD is set, whatever OP holds (30_encoding.md R97). -/
theorem decode_of_reservedBits (hr : rsvdField w ≠ 0) : decode w = .illegal .reservedBits := if_neg hr

/-- The words that decode to a command, by their fields (30_encoding.md R92). -/
theorem exists_decode_eq_legal_iff :
    (∃ i, decode w = .legal i) ↔ rsvdField w = 0 ∧ 1 ≤ (opField w).toNat ∧ (opField w).toNat ≤ 8 := by
  by_cases hr : rsvdField w = 0
  · by_cases ho : 1 ≤ (opField w).toNat ∧ (opField w).toNat ≤ 8
    · obtain ⟨i, hi⟩ := Option.ne_none_iff_exists'.mp (decodeOp_eq_none_iff.not_left.mpr ho)
      exact iff_of_true ⟨i, decode_of_decodeOp_eq_some hr hi⟩ ⟨hr, ho⟩
    · exact iff_of_false (by simp [decode_of_unknownOpcode hr ho]) fun h => ho h.2
  · exact iff_of_false (by simp [decode_of_reservedBits hr]) fun h => hr h.1

theorem Verdict.legal_or_illegal : ∀ v : Verdict, (∃ i, v = .legal i) ∨ ∃ why, v = .illegal why
  | .legal i => .inl ⟨i, rfl⟩
  | .illegal why => .inr ⟨why, rfl⟩

/-- Settles O1. -/
theorem decodeSelectsExactlyTheEightWords : Obligations.DecodeSelectsExactlyTheEightWords :=
  ⟨fun w => ⟨fun _ => decode_eq_legal_iff, exists_decode_eq_legal_iff, (decode w).legal_or_illegal⟩,
    rfl, rfl, rfl, rfl, rfl, rfl, rfl, rfl⟩

/-- Settles O2: five words are command words, and the fields of the other four say why they are none. -/
theorem writtenOutWordsDecode : Obligations.WrittenOutWordsDecode :=
  ⟨decode_encode .primeTest, decode_encode .findPrime, decode_encode .modInverse, decode_encode .genKeys,
    decode_encode .decrypt, decode_of_unknownOpcode (by decide) (by decide),
    decode_of_unknownOpcode (by decide) (by decide), decode_of_reservedBits (by decide),
    decode_of_reservedBits (by decide)⟩

end Sys2Proof
end

section
/-! Operands as numbers and as words (30_encoding.md R93, R94, R101): the words of a register assemble to its number,
`WROP` writes a whole operand word by word, and `WAIT` waits for the engine. -/

namespace Sys2Proof.Machine

variable {s : State} {rest : List HostOp}

/-! ### An operand is the number its words assemble -/

theorem toNat_getWord {n : Nat} (x : BitVec n) (i : Nat) : (getWord x i).toNat = x.toNat / 2 ^ (32 * i) % 2 ^ 32 := by
  rw [getWord, BitVec.extractLsb'_toNat, Nat.shiftRight_eq_div_pow]

theorem getWord_succ {n : Nat} (x : BitVec n) (i : Nat) : getWord x (i + 1) = getWord (x >>> 32) i := by
  apply BitVec.eq_of_toNat_eq
  rw [toNat_getWord, toNat_getWord, BitVec.toNat_ushiftRight, Nat.shiftRight_eq_div_pow, Nat.div_div_eq_div_mul,
    ← pow_add, Nat.mul_succ, Nat.add_comm]

/-- The first `k` words of a register assemble its low 32 * k bits. -/
theorem wordsValue_getWord {n : Nat} (x : BitVec n) (k : Nat) :
    wordsValue ((List.range k).map (getWord x)) = x.toNat % 2 ^ (32 * k) := by
  induction k generalizing x with
  | zero => simp [wordsValue, Nat.mod_one]
  | succ k ih =>
    have htail : (List.range k).map (getWord x ∘ Nat.succ) = (List.range k).map (getWord (x >>> 32)) :=
      List.map_congr_left fun i _ => getWord_succ x i
    rw [List.range_succ_eq_map, List.map_cons, List.map_map, htail, wordsValue, ih, toNat_getWord,
      BitVec.toNat_ushiftRight, Nat.shiftRight_eq_div_pow, Nat.mul_succ, Nat.add_comm (32 * k), pow_add, Nat.mod_mul,
      Nat.mul_zero, pow_zero, Nat.div_one]

theorem uint_eq_wordsValue_readWord (h : s.LegalConfig) (r : OpName) :
    s.uint r = wordsValue ((List.range s.nw).map fun i => s.readWord (opOffset r i)) := by
  obtain ⟨-, -, hopw, -⟩ := h.bounds
  have hread : ((List.range s.nw).map fun i => s.readWord (opOffset r i)) = (List.range s.nw).map (getWord (s.op r)) :=
    List.map_congr_left fun i hi => readWord_opOffset h r (List.mem_range.mp hi)
  rw [hread, wordsValue_getWord, ← hopw, State.uint, BitVec.toNat_setWidth]

/-- Two's complement: the top bit counts 2^OPW less (30_encoding.md R94). -/
theorem sint_eq_uint_sub (h : s.LegalConfig) (r : OpName) :
    s.sint r = (s.uint r : Int) - 2 ^ s.opw * (if (s.op r).getLsbD (s.opw - 1) then 1 else 0) := by
  obtain ⟨hlo, -⟩ := h.bounds
  have hmsb : ((s.op r).setWidth s.opw).msb = (s.op r).getLsbD (s.opw - 1) := by
    simp [BitVec.msb_eq_getLsbD_last, show 0 < s.opw by omega]
  rw [State.sint, State.uint, BitVec.toInt_eq_msb_cond, hmsb]
  split <;> simp

theorem sint_bounds (s : State) (r : OpName) : -2 ^ (s.opw - 1) ≤ s.sint r ∧ s.sint r < 2 ^ (s.opw - 1) :=
  ⟨BitVec.le_toInt _, BitVec.toInt_lt⟩

/-- Settles O8. -/
theorem operandsAssembleFromTheirWords : Obligations.OperandsAssembleFromTheirWords := fun s h =>
  ⟨uint_eq_wordsValue_readWord h .a, uint_eq_wordsValue_readWord h .b, uint_eq_wordsValue_readWord h .c,
    sint_eq_uint_sub h .c, s.uint_lt .a, s.uint_lt .b, s.uint_lt .c, sint_bounds s .c⟩

/-! ### WROP -/

/-- A register after the first `k` words of a value are written to it, lowest first (30_encoding.md R101). -/
def setWords {n m : Nat} (x : BitVec n) (y : BitVec m) : Nat → BitVec n
  | 0 => x
  | k + 1 => setWord (setWords x y k) k (getWord y k)

theorem getLsbD_setWords {n m : Nat} (x : BitVec n) (y : BitVec m) (k : Nat) {b : Nat} (hb : b < n) :
    (setWords x y k).getLsbD b = if b < 32 * k then y.getLsbD b else x.getLsbD b := by
  induction k with
  | zero => rfl
  | succ k ih =>
    rw [setWords, getLsbD_setWord _ _ _ _ hb, ih, getLsbD_getWord]
    by_cases hword : 32 * k ≤ b ∧ b < 32 * k + 32
    · have hsub : 32 * k + (b - 32 * k) = b := by omega
      simp [hword, hsub, show b - 32 * k < 32 by omega, show b < 32 * (k + 1) by omega]
    · rw [if_neg hword]
      exact if_congr (by omega) rfl rfl

/-- All words written, a register within the value's width holds the value. -/
theorem setWords_toNat {n m k : Nat} {x : BitVec n} (y : BitVec m) (hm : m = 32 * k) (hn : m ≤ n)
    (hx : x.toNat < 2 ^ m) : (setWords x y k).toNat = y.toNat := by
  have hbits : setWords x y k = y.setWidth n := by
    apply BitVec.eq_of_getLsbD_eq
    intro b hb
    rw [getLsbD_setWords _ _ _ hb, ← hm, BitVec.getLsbD_setWidth, decide_eq_true hb, Bool.true_and]
    split
    · rfl
    · rw [(toNat_lt_iff_getLsbD x m).mp hx b (by omega), BitVec.getLsbD_of_ge y b (by omega)]
  rw [hbits, BitVec.toNat_setWidth, Nat.mod_eq_of_lt (y.isLt.trans_le (Nat.pow_le_pow_right (by decide) hn))]

theorem setOp_op_self (s : State) (r : OpName) : s.setOp r (s.op r) = s := by
  cases r <;> rfl

theorem State.RegsFit.op (h : s.RegsFit) (r : OpName) : (s.op r).toNat < 2 ^ s.opw := by
  obtain ⟨ha, hb, hc, -⟩ := h
  cases r with
  | a => exact ha
  | b => exact hb
  | c => exact hc

/-- The write of one word of an operand while no command runs (20_memory.md R68). -/
theorem hostStep_wr_opWord (h : s.LegalConfig) (hf : s.hostFault = none) (hj : s.job = none) {r : OpName} {k : Nat}
    {w : Word} (hp : s.prog = .wr (opOffset r k) 4 w :: rest) (hk : k < s.nw) :
    s.hostStep = { s.setOp r (setWord (s.op r) k w) with prog := rest } := by
  rw [State.hostStep_wr hf hp (opOffset_aligned r k), writeWord_opOffset_idle h r hk hj]

/-- The transaction of `WROP` that is next after `k` of them. -/
theorem drop_expand_wrop {opw k : Nat} (r : OpName) (v : Int) (rest : List HostOp) (hk : k < opw / 32) :
    ((HostLine.wrop r v).expand opw ++ rest).drop k =
      .wr (opOffset r k) 4 (getWord (BitVec.ofInt opw v) k) :: ((HostLine.wrop r v).expand opw ++ rest).drop (k + 1) := by
  have hlen : k < ((HostLine.wrop r v).expand opw).length := by simpa [HostLine.expand] using hk
  rw [List.drop_eq_getElem_cons (by rw [List.length_append]; omega), List.getElem_append_left hlen]
  simp [HostLine.expand]

/-- After `k` transactions of `WROP` the first `k` words are written and the others are still to do. -/
theorem hostStep_iterate_wrop (h : s.LegalConfig) (hf : s.hostFault = none) (hj : s.job = none) {r : OpName} {v : Int}
    (hp : s.prog = (HostLine.wrop r v).expand s.opw ++ rest) {k : Nat} (hk : k ≤ s.nw) :
    State.hostStep^[k] s =
      { s.setOp r (setWords (s.op r) (BitVec.ofInt s.opw v) k) with prog := s.prog.drop k } := by
  induction k with
  | zero => simp [setWords, setOp_op_self]
  | succ k ih =>
    have hnext : s.prog.drop k = .wr (opOffset r k) 4 (getWord (BitVec.ofInt s.opw v) k) :: s.prog.drop (k + 1) := by
      rw [hp]
      exact drop_expand_wrop r v rest hk
    rw [Function.iterate_succ_apply', ih (by omega),
      hostStep_wr_opWord (r := r) (k := k) (by simpa using h) (by simpa using hf) (by simpa using hj) hnext
        (by simpa [State.nw] using hk)]
    cases r <;> rfl

/-- Settles O20. -/
theorem wropWritesTheWholeOperand : Obligations.WropWritesTheWholeOperand := by
  intro s r v rest h hregs hf hj hp
  obtain ⟨-, hmax, hopw, -⟩ := h.bounds
  have hlen : ((HostLine.wrop r v).expand s.opw).length = s.nw := by simp [HostLine.expand, State.nw]
  refine ⟨setWords (s.op r) (BitVec.ofInt s.opw v) s.nw, ?_, ?_⟩
  · rw [hostStep_iterate_wrop h hf hj hp le_rfl, hp, ← hlen, List.drop_left]
  · rw [setWords_toNat _ hopw hmax (hregs.op r), BitVec.toNat_ofInt, Int.toNat_of_nonneg (Int.emod_nonneg _ (by positivity)),
      Nat.cast_pow, Nat.cast_ofNat]

/-! ### WAIT -/

theorem getLsbD_statusWord_busy (s : State) : s.statusWord.getLsbD 0 = s.busy := getLsbD_statusWord s (by decide)

/-- `WAIT` reads STATUS and stays where it is while the read shows BUSY (30_encoding.md R101). -/
theorem hostStep_wait (hf : s.hostFault = none) (hp : s.prog = .wait :: rest) :
    s.hostStep = if s.busy then s.hostRead statusOffset else { s.hostRead statusOffset with prog := rest } := by
  have hstatus : s.readWord statusOffset = s.statusWord := readWord_status s
  simp only [State.hostStep, hf, hp, State.transact, hstatus, getLsbD_statusWord_busy]

/-- Settles O19. -/
theorem waitEndsWhenIdle : Obligations.WaitEndsWhenIdle := fun _ _ hf hp =>
  ⟨fun hj => (hostStep_wait hf hp).trans (if_pos (busy_eq_true_iff.mpr hj)),
    fun hj => (hostStep_wait hf hp).trans (if_neg (by simp [busy_eq_false_iff.mpr hj]))⟩

end Sys2Proof.Machine
end

section
/-! The operands a command does not read (30_encoding.md R93): PRIME_TEST, FIND_PRIME and GEN_KEYS read OPA alone, GCD and
MOD_INVERSE read OPA and OPB.

Every operation these commands are made of commutes with a change of an operand it does not read. -/

namespace Sys2Proof.Machine

variable (s : State) (b c : OpReg)

/-! ### The operations -/

/-- The state with other values in OPB and OPC. -/
def State.withBC : State := { s with opb := b, opc := c }

/-- The state with another value in OPC. -/
def State.withC : State := { s with opc := c }

@[simp] theorem withBC_opw : (s.withBC b c).opw = s.opw := rfl
@[simp] theorem withBC_uint_a : (s.withBC b c).uint .a = s.uint .a := rfl
@[simp] theorem withBC_candidate (d : Nat) : (s.withBC b c).candidate d = s.candidate d := rfl
@[simp] theorem withBC_savedPrime : (s.withBC b c).savedPrime = s.savedPrime := rfl
@[simp] theorem withBC_afterDraw : (s.withBC b c).afterDraw = s.afterDraw.withBC b c := rfl
@[simp] theorem withBC_savePrime (p : Nat) : (s.withBC b c).savePrime p = (s.savePrime p).withBC b c := rfl
@[simp] theorem withBC_complete (err : ErrCode) (rs : Results) :
    (s.withBC b c).complete err rs = (s.complete err rs).withBC b c := rfl

@[simp] theorem withBC_keygenFinal (p q : Nat) : (s.withBC b c).keygenFinal p q = (s.keygenFinal p q).withBC b c := by
  simp only [State.keygenFinal, withBC_complete]
  split <;> rfl

@[simp] theorem withBC_genKeysQ (p : Nat) : (s.withBC b c).genKeysQ p = (s.genKeysQ p).withBC b c := by
  simp only [State.genKeysQ, withBC_uint_a, withBC_candidate, withBC_afterDraw, withBC_keygenFinal]
  split <;> rfl

@[simp] theorem withBC_genKeysP : (s.withBC b c).genKeysP = s.genKeysP.withBC b c := by
  by_cases hd : digitsOkK s.opw (s.uint .a) = true
  · by_cases ha : accept (s.candidate (s.uint .a)) = true <;> simp [State.genKeysP, hd, ha]
  · simp [State.genKeysP, hd]

@[simp] theorem withC_uint_a : (s.withC c).uint .a = s.uint .a := rfl
@[simp] theorem withC_uint_b : (s.withC c).uint .b = s.uint .b := rfl
@[simp] theorem withC_complete (err : ErrCode) (rs : Results) :
    (s.withC c).complete err rs = (s.complete err rs).withC c := rfl

/-! ### The commands -/

variable {s b c} {t : State}

theorem execPrimeTest_withBC (h : execPrimeTest s = .next t) : execPrimeTest (s.withBC b c) = .next (t.withBC b c) := by
  cases h
  rfl

theorem execFindPrime_withBC (h : execFindPrime s = .next t) : execFindPrime (s.withBC b c) = .next (t.withBC b c) := by
  simp only [execFindPrime] at h
  split at h
  · split at h <;> cases h <;> simp [execFindPrime, *]
  · cases h
    simp [execFindPrime, *]

theorem execGenKeys_withBC (h : execGenKeys s = .next t) : execGenKeys (s.withBC b c) = .next (t.withBC b c) := by
  unfold execGenKeys at h
  split at h <;> cases h <;> simp [execGenKeys, *]

theorem execGcd_withC (h : execGcd s = .next t) : execGcd (s.withC c) = .next (t.withC c) := by
  cases h
  rfl

theorem execModInverse_withC (h : execModInverse s = .next t) : execModInverse (s.withC c) = .next (t.withC c) := by
  unfold execModInverse at h
  split at h <;> cases h <;> simp [execModInverse, *]

/-- Settles O52. -/
theorem unreadOperandsDoNotMatter : Obligations.UnreadOperandsDoNotMatter := by
  intro i s b c
  refine ⟨fun hi t ht => ?_, fun hi t ht => ?_⟩
  · simp only [List.mem_cons, List.not_mem_nil, or_false] at hi
    obtain rfl | rfl | rfl := hi
    exacts [execPrimeTest_withBC ht, execFindPrime_withBC ht, execGenKeys_withBC ht]
  · simp only [List.mem_cons, List.not_mem_nil, or_false] at hi
    obtain rfl | rfl := hi
    exacts [execGcd_withC ht, execModInverse_withC ht]

end Sys2Proof.Machine
end

section
/-! The trial-division test accepts exactly the odd primes (40_prime.md R110, R115).

The sweep from an odd `i` on looks for an odd divisor up to the root of `p`; its rounds are enough as soon as the
divisor they end at is above that root. -/

namespace Sys2Proof.Machine

variable {i p : Nat}

/-! ### What the sweep looks for -/

/-- No odd number from `i` on, up to the root of `p`, divides `p` (40_prime.md R110). -/
def NoOddDivisorFrom (i p : Nat) : Prop := ∀ k : Nat, i ≤ k → k % 2 = 1 → k * k ≤ p → p % k ≠ 0

theorem noOddDivisorFrom_of_lt_sq (h : p < i * i) : NoOddDivisorFrom i p := fun _ hk _ hsq =>
  absurd (h.trans_le ((Nat.mul_le_mul hk hk).trans hsq)) (lt_irrefl p)

/-- One round of the sweep decides one odd number. -/
theorem noOddDivisorFrom_iff (hi : i % 2 = 1) (hsq : i * i ≤ p) :
    NoOddDivisorFrom i p ↔ p % i ≠ 0 ∧ NoOddDivisorFrom (i + 2) p := by
  refine ⟨fun h => ⟨h i le_rfl hi hsq, fun k hk => h k (by omega)⟩, fun ⟨hdvd, h⟩ k hk hodd => ?_⟩
  obtain rfl | hnext : k = i ∨ i + 2 ≤ k := by omega
  · exact fun _ => hdvd
  · exact h k hnext hodd

theorem sweep_eq_true_iff {fuel : Nat} (hi : i % 2 = 1) (hfuel : p < (i + 2 * fuel) * (i + 2 * fuel)) :
    sweep fuel i p = true ↔ NoOddDivisorFrom i p := by
  induction fuel generalizing i with
  | zero => exact iff_of_true rfl (noOddDivisorFrom_of_lt_sq hfuel)
  | succ fuel ih =>
    rw [sweep]
    split
    next hsq =>
      have hrest : sweep fuel (i + 2) p = true ↔ NoOddDivisorFrom (i + 2) p :=
        ih (by omega) (by rwa [Nat.add_assoc, Nat.add_comm 2, ← Nat.mul_succ])
      rw [noOddDivisorFrom_iff hi hsq, ← hrest]
      split <;> simp [*]
    next hsq => exact iff_of_true rfl (noOddDivisorFrom_of_lt_sq (not_le.mp hsq))

/-! ### The test -/

theorem accept_eq_true_iff : accept p = true ↔ p ≠ 1 ∧ p % 2 ≠ 0 ∧ NoOddDivisorFrom 3 p := by
  have hsweep : sweep p 3 p = true ↔ NoOddDivisorFrom 3 p := sweep_eq_true_iff rfl (by nlinarith)
  rw [accept, ← hsweep]
  split
  next hrej => exact iff_of_false (by decide) fun ⟨h1, hodd, _⟩ => hrej.elim h1 hodd
  next hrej => simp [not_or.mp hrej]

/-- The least prime factor of an odd composite number is an odd divisor below the root. -/
theorem prime_of_noOddDivisorFrom_three (h1 : p ≠ 1) (hodd : p % 2 ≠ 0) (h : NoOddDivisorFrom 3 p) : p.Prime := by
  by_contra hp
  have hdvd : p.minFac ∣ p := p.minFac_dvd
  have hmin_odd : p.minFac % 2 = 1 := by
    by_contra heven
    exact hodd (Nat.mod_eq_zero_of_dvd (dvd_trans (Nat.dvd_of_mod_eq_zero (by omega)) hdvd))
  have hmin_two : 2 ≤ p.minFac := (Nat.minFac_prime h1).two_le
  have hmin_sq : p.minFac * p.minFac ≤ p := by
    rw [← pow_two]
    exact Nat.minFac_sq_le_self (by omega) hp
  exact h p.minFac (by omega) hmin_odd hmin_sq (Nat.mod_eq_zero_of_dvd hdvd)

/-- A divisor of a prime from 3 on is the prime itself, which is above its own root. -/
theorem noOddDivisorFrom_three_of_prime (hp : p.Prime) : NoOddDivisorFrom 3 p := by
  intro k hk _ hsq hmod
  obtain rfl : k = p := (Nat.dvd_prime_two_le hp (by omega)).mp (Nat.dvd_of_mod_eq_zero hmod)
  nlinarith

theorem accept_eq_true_iff_prime : accept p = true ↔ p.Prime ∧ p ≠ 2 := by
  rw [accept_eq_true_iff]
  constructor
  · rintro ⟨h1, hodd, h⟩
    exact ⟨prime_of_noOddDivisorFrom_three h1 hodd h, by rintro rfl; exact hodd rfl⟩
  · rintro ⟨hp, h2⟩
    exact ⟨hp.ne_one, by simp [hp.eq_two_or_odd.resolve_left h2], noOddDivisorFrom_three_of_prime hp⟩

/-- Settles O26. -/
theorem acceptsExactlyTheOddPrimes : Obligations.AcceptsExactlyTheOddPrimes := fun _ =>
  ⟨accept_eq_true_iff, accept_eq_true_iff_prime⟩

end Sys2Proof.Machine
end

section
/-! The PrimeFinder commands: the next state of PRIME_TEST and FIND_PRIME (40_prime.md R111 to R114) and the primes
FIND_PRIME returns (R116, R118). -/

namespace Sys2Proof.Machine

variable {s t : State}

/-! ### PRIME_TEST -/

/-- Settles O27: a verdict is 0 or 1 and fits every result register. -/
theorem primeTestResult : Obligations.PrimeTestResult := by
  refine ⟨decode_encode .primeTest, fun s h => ?_⟩
  obtain ⟨hmin, -⟩ := h.bounds
  have hrw : s.rw ≠ 0 := by unfold State.rw; omega
  rw [exec, execPrimeTest]
  split
  · exact congrArg _ (s.complete_one 1 (Nat.one_lt_two_pow hrw))
  · exact congrArg _ (s.complete_one 0 (by positivity))

/-! ### The draw of FIND_PRIME -/

/-- A queued value of the range is drawn as it is (60_exceptions.md R195). -/
theorem candidate_of_queued {c d : Nat} {cs : List Nat} (hq : s.draws = c :: cs) (hlo : sampleLo d ≤ c)
    (hhi : c ≤ sampleHi d) : s.candidate d = c := by
  rw [State.candidate, State.drawn, hq]
  exact foldInto_eq _ _ _ hlo hhi

/-- A draw of a legal digit count fits an operand register. -/
theorem candidate_lt_of_digitsOkP {d : Nat} (hd : digitsOkP s.opw d = true) : s.candidate d < 2 ^ s.opw :=
  have ⟨hpos, hfits⟩ := digitsOkP_iff.mp hd
  (candidate_mem s hpos).2.trans_lt hfits

/-! ### FIND_PRIME -/

/-- FIND_PRIME refuses a digit count out of range without a draw (40_prime.md R113). -/
theorem execFindPrime_of_digits_refused (hd : digitsOkP s.opw (s.uint .a) = false) :
    execFindPrime s = .next { s with err := 3, done := true, job := none } := by
  rw [execFindPrime, if_neg (by simp [hd])]
  exact congrArg _ (s.complete_error .arg .unused (by decide))

/-- The state after FIND_PRIME has found the prime `c`. -/
def State.foundPrime (s : State) (c : Nat) : State :=
  { s.afterDraw with res0 := BitVec.ofNat 2048 c, res1 := 0, res2 := 0, err := 0, done := true, job := none }

/-- With a legal digit count, an accepted draw completes FIND_PRIME and a rejected one is only taken
(40_prime.md R113). -/
theorem execFindPrime_of_digits_ok (hd : digitsOkP s.opw (s.uint .a) = true) :
    execFindPrime s =
      if accept (s.candidate (s.uint .a)) then .next (s.foundPrime (s.candidate (s.uint .a)))
      else .next s.afterDraw := by
  have hfits : s.candidate (s.uint .a) < 2 ^ s.afterDraw.rw :=
    (candidate_lt_of_digitsOkP hd).trans_le (Nat.pow_le_pow_right (by decide) (by simp [State.rw]; omega))
  simp only [execFindPrime, hd, if_true, State.complete_one _ _ hfits]
  rfl

/-- Settles O30. -/
theorem findPrimeStep : Obligations.FindPrimeStep :=
  ⟨decode_encode .findPrime, fun _ _ =>
    ⟨fun hd => execFindPrime_of_digits_refused (Bool.eq_false_iff.mpr (digitsOkP_iff.not.mpr hd)),
      fun hpos hhi => execFindPrime_of_digits_ok (digitsOkP_iff.mpr ⟨hpos, hhi⟩)⟩⟩

/-- A FIND_PRIME that ends has found its draw, and the draw was accepted. -/
theorem execFindPrime_eq_next_idle (hd : digitsOkP s.opw (s.uint .a) = true) (hbusy : s.busy = true)
    (h : execFindPrime s = .next t) (hj : t.job = none) :
    accept (s.candidate (s.uint .a)) = true ∧ t = s.foundPrime (s.candidate (s.uint .a)) := by
  rw [execFindPrime_of_digits_ok hd] at h
  split at h
  next hacc =>
    cases h
    exact ⟨hacc, rfl⟩
  next =>
    cases h
    exact absurd hj (busy_eq_true_iff.mp hbusy)

/-- The result register holds the prime itself: a draw has no more bits than an operand. -/
theorem foundPrime_res0_toNat {c : Nat} (h : s.LegalConfig) (hc : c < 2 ^ s.opw) : (s.foundPrime c).res0.toNat = c := by
  obtain ⟨-, hmax, -⟩ := h.bounds
  have hwidth : s.opw ≤ 2048 := by omega
  have hlt := hc.trans_le (Nat.pow_le_pow_right (by decide) hwidth)
  rw [State.foundPrime, BitVec.toNat_ofNat, Nat.mod_eq_of_lt hlt]

theorem execFindPrime_of_queued_prime {p : Nat} {cs : List Nat} (hd : digitsOkP s.opw (s.uint .a) = true)
    (hq : s.draws = p :: cs) (hp : p.Prime) (h2 : p ≠ 2) (hlo : sampleLo (s.uint .a) ≤ p)
    (hhi : p ≤ sampleHi (s.uint .a)) : execFindPrime s = .next (s.foundPrime p) := by
  rw [execFindPrime_of_digits_ok hd, candidate_of_queued hq hlo hhi, if_pos (accept_eq_true_iff_prime.mpr ⟨hp, h2⟩)]

/-- Settles O31: a draw that ends the command was accepted, and a prime of the range can be the draw. -/
theorem findPrimeReturnsExactlyTheOddPrimes : Obligations.FindPrimeReturnsExactlyTheOddPrimes := by
  intro s h hbusy hpos hhi
  have hd : digitsOkP s.opw (s.uint .a) = true := digitsOkP_iff.mpr ⟨hpos, hhi⟩
  refine ⟨fun t ht hj => ?_, fun p hp h2 hlo hle => ?_⟩
  · obtain ⟨hacc, rfl⟩ := execFindPrime_eq_next_idle hd hbusy ht hj
    rw [foundPrime_res0_toNat h (candidate_lt_of_digitsOkP hd)]
    obtain ⟨hprime, hne⟩ := accept_eq_true_iff_prime.mp hacc
    exact ⟨rfl, hprime, hne, candidate_mem s hpos⟩
  · exact ⟨_, execFindPrime_of_queued_prime (s := { s with draws := [p] }) hd rfl hp h2 hlo hle, rfl, rfl⟩

end Sys2Proof.Machine
end

section
/-! The forward trace of Euclid's algorithm: its recursion, its last term, its descent and its length (41_euclid.md R130 to
R132). -/

namespace Sys2Proof.Machine

variable {u v x y : Nat}

/-! ### The recursion of the trace -/

/-- Rounds beyond the second operand add no term to the trace. -/
theorem traceLoop_eq_of_le {fuel : Nat} (hv : 0 < v) (hfuel : v ≤ fuel) : traceLoop fuel u v = traceLoop v u v := by
  induction v using Nat.strong_induction_on generalizing u fuel with
  | _ v ih =>
    obtain ⟨fuel, rfl⟩ : ∃ k, fuel = k + 1 := ⟨fuel - 1, by omega⟩
    obtain ⟨k, rfl⟩ : ∃ k, v = k + 1 := ⟨v - 1, by omega⟩
    simp only [traceLoop]
    split
    · rfl
    · next hr =>
      have hlt := Nat.mod_lt u hv
      have hpos := Nat.pos_of_ne_zero hr
      rw [ih _ hlt hpos (fuel := fuel) (by omega), ih _ hlt hpos (fuel := k) (by omega)]

@[simp] theorem orderedTrace_zero (u : Nat) : orderedTrace u 0 = [u] := rfl

theorem orderedTrace_of_pos (hv : 0 < v) : orderedTrace u v = u :: v :: traceLoop v u v := if_neg hv.ne'

theorem orderedTrace_of_mod_eq_zero (hv : 0 < v) (hr : u % v = 0) : orderedTrace u v = [u, v] := by
  rw [orderedTrace_of_pos hv]
  cases v <;> simp_all [traceLoop]

theorem orderedTrace_of_mod_ne_zero (hv : 0 < v) (hr : u % v ≠ 0) :
    orderedTrace u v = u :: orderedTrace v (u % v) := by
  have hlt := Nat.mod_lt u hv
  have hpos := Nat.pos_of_ne_zero hr
  obtain ⟨k, rfl⟩ : ∃ k, v = k + 1 := ⟨v - 1, by omega⟩
  rw [orderedTrace_of_pos hv, orderedTrace_of_pos hpos, traceLoop, if_neg hr, traceLoop_eq_of_le hpos (by omega)]

/-- Induction along a trace: it has one term, two terms, or one term in front of the trace of the second operand and the
remainder. -/
theorem trace_induction {P : Nat → Nat → Prop} (one : ∀ u, P u 0) (two : ∀ u v, 0 < v → u % v = 0 → P u v)
    (cons : ∀ u v, 0 < v → u % v ≠ 0 → P v (u % v) → P u v) (u v : Nat) : P u v := by
  induction v using Nat.strong_induction_on generalizing u with
  | _ v ih =>
    obtain rfl | hv := Nat.eq_zero_or_pos v
    · exact one u
    · by_cases hr : u % v = 0
      · exact two u v hv hr
      · exact cons u v hv hr (ih _ (Nat.mod_lt u hv) v)

theorem trace_of_lt (h : x < y) : trace x y = (orderedTrace y x, true) := if_pos h

theorem trace_of_le (h : y ≤ x) : trace x y = (orderedTrace x y, false) := if_neg h.not_gt

/-! ### The last term -/

theorem orderedTrace_ne_nil (u v : Nat) : orderedTrace u v ≠ [] := by
  obtain rfl | hv := Nat.eq_zero_or_pos v
  · simp
  · simp [orderedTrace_of_pos hv]

theorem lastTerm_cons {t : List Nat} (ht : t ≠ []) : lastTerm (u :: t) = lastTerm t := by
  simp [lastTerm, List.getLastD_eq_getLast?, List.getLast?_cons_of_ne_nil ht]

theorem gcd_mod_self (u v : Nat) : Nat.gcd v (u % v) = Nat.gcd u v := by
  rw [Nat.gcd_comm, ← Nat.gcd_rec, Nat.gcd_comm]

/-- Each remainder keeps the gcd, and the last two terms have the last one as theirs. -/
theorem lastTerm_orderedTrace (u v : Nat) : lastTerm (orderedTrace u v) = Nat.gcd u v := by
  induction u, v using trace_induction with
  | one u => simp [lastTerm]
  | two u v hv hr =>
    rw [orderedTrace_of_mod_eq_zero hv hr, Nat.gcd_eq_right (Nat.dvd_of_mod_eq_zero hr)]
    rfl
  | cons u v hv hr ih =>
    rw [orderedTrace_of_mod_ne_zero hv hr, lastTerm_cons (orderedTrace_ne_nil _ _), ih, gcd_mod_self]

@[simp] theorem lastTerm_trace (x y : Nat) : lastTerm (trace x y).1 = Nat.gcd x y := by
  obtain h | h := lt_or_ge x y
  · rw [trace_of_lt h, lastTerm_orderedTrace, Nat.gcd_comm]
  · rw [trace_of_le h, lastTerm_orderedTrace]

/-! ### The descent -/

/-- The terms of a trace with unequal operands fall from the first on. -/
theorem isChain_orderedTrace (h : v < u) : (orderedTrace u v).IsChain (· > ·) := by
  induction u, v using trace_induction with
  | one u => simp
  | two u v hv hr => simpa [orderedTrace_of_mod_eq_zero hv hr] using h
  | cons u v hv hr ih =>
    have htail := ih (Nat.mod_lt u hv)
    rw [orderedTrace_of_mod_ne_zero hv hr]
    rw [orderedTrace_of_pos (Nat.pos_of_ne_zero hr)] at htail ⊢
    exact htail.cons_cons h

/-- The terms of every trace fall from the second on. -/
theorem isChain_tail_orderedTrace (u v : Nat) : (orderedTrace u v).tail.IsChain (· > ·) := by
  induction u, v using trace_induction with
  | one u => simp
  | two u v hv hr => simp [orderedTrace_of_mod_eq_zero hv hr]
  | cons u v hv hr => simpa [orderedTrace_of_mod_ne_zero hv hr] using isChain_orderedTrace (Nat.mod_lt u hv)

theorem isChain_tail_trace (x y : Nat) : (trace x y).1.tail.IsChain (· > ·) := by
  unfold trace
  split <;> exact isChain_tail_orderedTrace _ _

/-- Settles O32. -/
theorem traceEndsInTheGcd : Obligations.TraceEndsInTheGcd := by
  intro x y
  refine ⟨lastTerm_trace x y, by simp [Nat.gcd_eq_zero_iff], fun i hi hlen => ?_⟩
  obtain ⟨k, rfl⟩ : ∃ k, i = k + 2 := ⟨i - 2, by omega⟩
  have hfall := List.isChain_iff_getElem.mp (isChain_tail_trace x y) k (by simp; omega)
  change List.getD _ (k + 2) 0 < List.getD _ (k + 1) 0
  rw [List.getD_eq_getElem _ _ hlen, List.getD_eq_getElem _ _ (Nat.lt_of_succ_lt hlen)]
  simpa using hfall

/-! ### The length -/

/-- Lamé: the operands are at least the Fibonacci numbers of the trace's length. -/
theorem fib_length_orderedTrace_le (h : v < u) :
    Nat.fib ((orderedTrace u v).length + 1) ≤ u ∧ (0 < v → Nat.fib (orderedTrace u v).length ≤ v) := by
  induction u, v using trace_induction with
  | one u => exact ⟨h, fun h0 => absurd h0 (lt_irrefl 0)⟩
  | two u v hv hr =>
    rw [orderedTrace_of_mod_eq_zero hv hr]
    exact ⟨Nat.succ_le_of_lt (lt_of_le_of_lt hv h), fun _ => hv⟩
  | cons u v hv hr ih =>
    obtain ⟨hfirst, hsecond⟩ := ih (Nat.mod_lt u hv)
    have hsum : v + u % v ≤ u := by
      have := Nat.div_add_mod u v
      have := Nat.le_mul_of_pos_right v (Nat.div_pos h.le hv)
      omega
    rw [orderedTrace_of_mod_ne_zero hv hr, List.length_cons, Nat.fib_add_two]
    exact ⟨by have := hsecond (Nat.pos_of_ne_zero hr); omega, fun _ => hfirst⟩

theorem four_mul_fib_le (m : Nat) : 4 * Nat.fib (m + 2) ≤ Nat.fib (m + 5) := by
  have hmono : Nat.fib m ≤ Nat.fib (m + 1) := Nat.fib_le_fib_succ
  simp only [Nat.fib_add_two]
  omega

/-- Three steps along the Fibonacci numbers outgrow two doublings. -/
theorem two_pow_le_fib : ∀ n : Nat, 2 ^ n ≤ Nat.fib (3 * n / 2 + 4)
  | 0 => by decide
  | 1 => by decide
  | n + 2 => by
    have ih := two_pow_le_fib n
    have hgrow : 4 * Nat.fib (3 * n / 2 + 4) ≤ Nat.fib (3 * n / 2 + 7) := four_mul_fib_le (3 * n / 2 + 2)
    rw [show 3 * (n + 2) / 2 + 4 = 3 * n / 2 + 7 by omega, pow_add]
    omega

theorem length_orderedTrace_le {n : Nat} (h : v ≤ u) (hu : u < 2 ^ n) :
    (orderedTrace u v).length ≤ 3 * n / 2 + 2 := by
  obtain hlt | rfl := h.lt_or_eq
  · have hfib := (fib_length_orderedTrace_le hlt).1.trans_lt (hu.trans_le (two_pow_le_fib n))
    have := Nat.fib_mono.reflect_lt hfib
    omega
  · obtain rfl | hv := Nat.eq_zero_or_pos v
    · simp
    · simp [orderedTrace_of_mod_eq_zero hv (Nat.mod_self v)]

/-- Settles O33. -/
theorem traceLengthIsBounded : Obligations.TraceLengthIsBounded := by
  intro n x y hx hy
  obtain h | h := lt_or_ge x y
  · rw [trace_of_lt h]
    exact length_orderedTrace_le h.le hy
  · rw [trace_of_le h]
    exact length_orderedTrace_le h hx

end Sys2Proof.Machine
end

section
/-! The Bézout coefficients: the pair that the walk back through the trace gives for the gcd, when bezout answers a pair
and which (41_euclid.md R133 to R136, R139), and how large it is (R137). -/

namespace Sys2Proof.Machine

variable {u v x y : Nat} {t a b : Int}

/-! ### The pair of an ordered trace -/

/-- The last step of the walk back is the one at the front of the trace. -/
theorem backSub_append (l : List Nat) (tn ti tp : Nat) (p : Int × Int) :
    backSub (l ++ [tn, ti, tp]) p =
      ((backSub (l ++ [tn, ti]) p).2,
        (backSub (l ++ [tn, ti]) p).1 - (backSub (l ++ [tn, ti]) p).2 * (((tp : Int) - tn) / ti)) := by
  induction l generalizing p with
  | nil => rfl
  | cons c l ih =>
    match l with
    | [] => rfl
    | [_] => rfl
    | _ :: _ :: _ => exact ih _

/-- One term in front of a trace is one step of the walk back. -/
theorem gcdPair_cons (tp ti tn : Nat) (l : List Nat) :
    gcdPair (tp :: ti :: tn :: l) =
      ((gcdPair (ti :: tn :: l)).2,
        (gcdPair (ti :: tn :: l)).1 - (gcdPair (ti :: tn :: l)).2 * (((tp : Int) - tn) / ti)) := by
  have h := backSub_append l.reverse tn ti tp (0, 1)
  simpa [gcdPair] using h

@[simp] theorem gcdPair_singleton (u : Nat) : gcdPair [u] = (1, 0) := rfl

theorem gcdPair_orderedTrace_of_mod_eq_zero (hv : 0 < v) (hr : u % v = 0) :
    gcdPair (orderedTrace u v) = (0, 1) := by
  rw [orderedTrace_of_mod_eq_zero hv hr]
  rfl

theorem natCast_sub_mod (u v : Nat) : (u : Int) - (u % v : Nat) = v * (u / v : Nat) := by
  rw [sub_eq_iff_eq_add]
  exact_mod_cast (Nat.div_add_mod u v).symm

/-- R134: the quotient of a step back is that of the two terms in front. -/
theorem gcdPair_orderedTrace_of_mod_ne_zero (hv : 0 < v) (hr : u % v ≠ 0) :
    gcdPair (orderedTrace u v) =
      ((gcdPair (orderedTrace v (u % v))).2,
        (gcdPair (orderedTrace v (u % v))).1 - (gcdPair (orderedTrace v (u % v))).2 * ((u / v : Nat) : Int)) := by
  have hquot : ((u : Int) - (u % v : Nat)) / v = (u / v : Nat) := by
    rw [natCast_sub_mod, Int.mul_ediv_cancel_left _ (by omega)]
  rw [orderedTrace_of_mod_ne_zero hv hr, orderedTrace_of_pos (Nat.pos_of_ne_zero hr), gcdPair_cons, hquot]

/-- Every step back keeps the gcd a combination of the two terms in front. -/
theorem gcdPair_orderedTrace_solves (u v : Nat) :
    (gcdPair (orderedTrace u v)).1 * u + (gcdPair (orderedTrace u v)).2 * v = (Nat.gcd u v : Int) := by
  induction u, v using trace_induction with
  | one u => simp
  | two u v hv hr =>
    simp [gcdPair_orderedTrace_of_mod_eq_zero hv hr, Nat.gcd_eq_right (Nat.dvd_of_mod_eq_zero hr)]
  | cons u v hv hr ih =>
    rw [gcdPair_orderedTrace_of_mod_ne_zero hv hr, ← gcd_mod_self, ← ih]
    linear_combination (gcdPair (orderedTrace v (u % v))).2 * natCast_sub_mod u v

/-- The first coefficient is at most the second operand and the second at most the first, both counted in gcds; the gcd
itself stands for an operand that is 0. -/
theorem gcdPair_orderedTrace_le (u v : Nat) :
    (gcdPair (orderedTrace u v)).1.natAbs * Nat.gcd u v ≤ max (Nat.gcd u v) v ∧
      (gcdPair (orderedTrace u v)).2.natAbs * Nat.gcd u v ≤ max (Nat.gcd u v) u := by
  induction u, v using trace_induction with
  | one u => simp
  | two u v hv hr => simp [gcdPair_orderedTrace_of_mod_eq_zero hv hr]
  | cons u v hv hr ih =>
    rw [gcdPair_orderedTrace_of_mod_ne_zero hv hr, ← gcd_mod_self]
    generalize gcdPair (orderedTrace v (u % v)) = p at ih ⊢
    obtain ⟨hfirst, hsecond⟩ := ih
    refine ⟨hsecond, le_max_of_le_right ?_⟩
    rw [max_eq_right (Nat.gcd_le_right _ (Nat.pos_of_ne_zero hr))] at hfirst
    rw [max_eq_right (Nat.gcd_le_left _ hv)] at hsecond
    calc (p.1 - p.2 * (u / v : Nat)).natAbs * Nat.gcd v (u % v)
        ≤ (p.1.natAbs + p.2.natAbs * (u / v)) * Nat.gcd v (u % v) := by
          gcongr
          exact (Int.natAbs_sub_le _ _).trans_eq (by rw [Int.natAbs_mul, Int.natAbs_natCast])
      _ = p.1.natAbs * Nat.gcd v (u % v) + p.2.natAbs * Nat.gcd v (u % v) * (u / v) := by ring
      _ ≤ u % v + v * (u / v) := by gcongr
      _ = u := Nat.mod_add_div u v

/-! ### The pair of any operands -/

/-- The pair (a, b) with gcd(x, y) = a * x + b * y that bezout scales: that of the trace, swapped back when the operands
were out of order (41_euclid.md R133). -/
def bezoutPair (x y : Nat) : Int × Int :=
  if x < y then (gcdPair (orderedTrace y x)).swap else gcdPair (orderedTrace x y)

theorem bezoutPair_of_le (h : y ≤ x) : bezoutPair x y = gcdPair (orderedTrace x y) := if_neg h.not_gt

theorem bezoutPair_of_lt (h : x < y) : bezoutPair x y = (bezoutPair y x).swap := by
  rw [bezoutPair_of_le h.le, bezoutPair, if_pos h]

/-- bezout answers exactly the targets that the gcd divides, 0 alone when both operands are 0. -/
theorem bezout_eq (x y : Nat) (t : Int) :
    bezout x y t =
      if (Nat.gcd x y : Int) ∣ t then
        some ((bezoutPair x y).1 * (t / Nat.gcd x y), (bezoutPair x y).2 * (t / Nat.gcd x y))
      else none := by
  obtain hg | hg := Nat.eq_zero_or_pos (Nat.gcd x y)
  · obtain ⟨rfl, rfl⟩ := Nat.gcd_eq_zero_iff.mp hg
    simp [bezout]
  · have hg' : (Nat.gcd x y : Int) ≠ 0 := by exact_mod_cast hg.ne'
    have hdvd : t % Nat.gcd x y ≠ 0 ↔ ¬(Nat.gcd x y : Int) ∣ t := by rw [Int.dvd_iff_emod_eq_zero]
    simp only [bezout, lastTerm_trace, if_neg hg', hdvd, ite_not, bezoutPair]
    obtain h | h := lt_or_ge x y
    · simp [trace_of_lt h, h]
    · simp [trace_of_le h, h.not_gt]

theorem bezout_of_dvd (h : (Nat.gcd x y : Int) ∣ t) :
    bezout x y t = some ((bezoutPair x y).1 * (t / Nat.gcd x y), (bezoutPair x y).2 * (t / Nat.gcd x y)) := by
  rw [bezout_eq, if_pos h]

theorem bezout_eq_none_iff : bezout x y t = none ↔ ¬(Nat.gcd x y : Int) ∣ t := by
  rw [bezout_eq]
  split <;> simp_all

theorem bezout_eq_some_iff :
    bezout x y t = some (a, b) ↔
      (Nat.gcd x y : Int) ∣ t ∧ (bezoutPair x y).1 * (t / Nat.gcd x y) = a ∧
        (bezoutPair x y).2 * (t / Nat.gcd x y) = b := by
  rw [bezout_eq]
  split <;> simp_all

theorem bezoutPair_solves (x y : Nat) : (bezoutPair x y).1 * x + (bezoutPair x y).2 * y = (Nat.gcd x y : Int) := by
  obtain h | h := lt_or_ge x y
  · rw [bezoutPair_of_lt h, bezoutPair_of_le h.le, Nat.gcd_comm, ← gcdPair_orderedTrace_solves y x]
    exact add_comm _ _
  · rw [bezoutPair_of_le h, gcdPair_orderedTrace_solves]

theorem bezoutPair_le (x y : Nat) :
    (bezoutPair x y).1.natAbs * Nat.gcd x y ≤ max (Nat.gcd x y) y ∧
      (bezoutPair x y).2.natAbs * Nat.gcd x y ≤ max (Nat.gcd x y) x := by
  obtain h | h := lt_or_ge x y
  · rw [bezoutPair_of_lt h, bezoutPair_of_le h.le, Nat.gcd_comm]
    exact (gcdPair_orderedTrace_le y x).symm
  · rw [bezoutPair_of_le h]
    exact gcdPair_orderedTrace_le x y

/-! ### The pair bezout answers -/

/-- R135: the substitution check. -/
theorem bezout_solves (h : bezout x y t = some (a, b)) : a * x + b * y = t := by
  obtain ⟨hdvd, rfl, rfl⟩ := bezout_eq_some_iff.mp h
  linear_combination (t / Nat.gcd x y) * bezoutPair_solves x y + Int.mul_ediv_cancel' hdvd

theorem gcd_dvd_of_solution (h : a * x + b * y = t) : (Nat.gcd x y : Int) ∣ t := by
  have hx : (Nat.gcd x y : Int) ∣ x := by exact_mod_cast Nat.gcd_dvd_left x y
  have hy : (Nat.gcd x y : Int) ∣ y := by exact_mod_cast Nat.gcd_dvd_right x y
  exact h ▸ dvd_add (hx.mul_left a) (hy.mul_left b)

theorem gcd_dvd_iff_exists_solution : (Nat.gcd x y : Int) ∣ t ↔ ∃ a b : Int, a * x + b * y = t :=
  ⟨fun h => ⟨_, _, bezout_solves (bezout_of_dvd h)⟩, fun ⟨_, _, h⟩ => gcd_dvd_of_solution h⟩

/-- R139: the gcd divides no target but 0 when it is 0 itself. -/
theorem not_gcd_dvd_iff :
    ¬(Nat.gcd x y : Int) ∣ t ↔ (x = 0 ∧ y = 0 ∧ t ≠ 0) ∨ (0 < Nat.gcd x y ∧ ¬(Nat.gcd x y : Int) ∣ t) := by
  obtain hg | hg := Nat.eq_zero_or_pos (Nat.gcd x y)
  · obtain ⟨rfl, rfl⟩ := Nat.gcd_eq_zero_iff.mp hg
    simp
  · have hxy : ¬(x = 0 ∧ y = 0 ∧ t ≠ 0) := fun ⟨hx, hy, _⟩ => hg.ne' (Nat.gcd_eq_zero_iff.mpr ⟨hx, hy⟩)
    simp [hg, hxy]

theorem bezout_of_lt (h : x < y) : bezout x y t = (bezout y x t).map fun ab => (ab.2, ab.1) := by
  rw [bezout_eq, bezout_eq, bezoutPair_of_lt h, Nat.gcd_comm]
  split <;> rfl

theorem bezout_zero_right (x : Nat) (t : Int) : bezout x 0 t = if (x : Int) ∣ t then some (t / x, 0) else none := by
  simp [bezout_eq, bezoutPair_of_le (Nat.zero_le x)]

theorem bezout_of_mod_eq_zero (hy : 0 < y) (hyx : y ≤ x) (hr : x % y = 0) :
    bezout x y t = if (y : Int) ∣ t then some (0, t / y) else none := by
  simp [bezout_eq, bezoutPair_of_le hyx, gcdPair_orderedTrace_of_mod_eq_zero hy hr,
    Nat.gcd_eq_right (Nat.dvd_of_mod_eq_zero hr)]

theorem bezout_of_mod_ne_zero (hy : 0 < y) (hyx : y ≤ x) (hr : x % y ≠ 0) :
    bezout x y t = (bezout y (x % y) t).map fun ab => (ab.2, ab.1 - ab.2 * ((x / y : Nat) : Int)) := by
  rw [bezout_eq, bezout_eq, gcd_mod_self, bezoutPair_of_le hyx, bezoutPair_of_le (Nat.mod_lt x hy).le,
    gcdPair_orderedTrace_of_mod_ne_zero hy hr]
  split
  · rw [Option.map_some, sub_mul, mul_right_comm]
  · rfl

/-- Settles O34. -/
theorem bezoutSolvesOrNoSolutionExists : Obligations.BezoutSolvesOrNoSolutionExists := by
  intro x y t
  refine ⟨fun a b => bezout_solves, bezout_eq_none_iff.trans gcd_dvd_iff_exists_solution.not,
    bezout_eq_none_iff.trans not_gcd_dvd_iff, bezout_of_lt, ?_, ?_, bezout_of_mod_eq_zero, bezout_of_mod_ne_zero⟩
  · rintro rfl rfl
    simp [bezout_zero_right]
  · rintro - rfl
    exact bezout_zero_right x t

/-! ### Its size -/

theorem bezout_natAbs_mul_gcd_le (h : bezout x y t = some (a, b)) :
    a.natAbs * Nat.gcd x y ≤ max (Nat.gcd x y) y * (t / Nat.gcd x y).natAbs ∧
      b.natAbs * Nat.gcd x y ≤ max (Nat.gcd x y) x * (t / Nat.gcd x y).natAbs := by
  obtain ⟨-, rfl, rfl⟩ := bezout_eq_some_iff.mp h
  obtain ⟨hfirst, hsecond⟩ := bezoutPair_le x y
  rw [Int.natAbs_mul, Int.natAbs_mul, mul_right_comm, mul_right_comm (bezoutPair x y).2.natAbs]
  exact ⟨Nat.mul_le_mul_right _ hfirst, Nat.mul_le_mul_right _ hsecond⟩

/-- Settles O35. -/
theorem bezoutCoefficientsAreSmall : Obligations.BezoutCoefficientsAreSmall := by
  intro x y t a b hx hy h
  have hg := Nat.gcd_pos_of_pos_left y hx
  obtain ⟨ha, hb⟩ := bezout_natAbs_mul_gcd_le h
  rw [max_eq_right (Nat.gcd_le_right x hy)] at ha
  rw [max_eq_right (Nat.gcd_le_left y hx)] at hb
  rw [Nat.div_mul_right_comm (Nat.gcd_dvd_right x y), Nat.div_mul_right_comm (Nat.gcd_dvd_left x y)]
  exact ⟨(Nat.le_div_iff_mul_le hg).mpr ha, (Nat.le_div_iff_mul_le hg).mpr hb⟩

end Sys2Proof.Machine
end

section
/-! The normalised inverse (41_euclid.md R138) and the commands GCD, SOLVE_BEZOUT and MOD_INVERSE: the next state of each
(R140, R141, R143), that no coefficient overflows (R137), and that MOD_INVERSE leaves the inverse (R144). -/

namespace Sys2Proof.Machine

variable {s : State} {a b d : Int} {phi : Nat}

/-! ### Normalisation -/

theorem norm_of_pos (hd : 0 < d) : norm d phi = d := if_pos hd

theorem norm_of_nonpos (hd : d ≤ 0) : norm d phi = d + (-d / phi + 1) * phi := if_neg hd.not_gt

/-- Adding L * phi gives a positive number exactly when L is above the quotient of -d. -/
theorem add_mul_pos_iff (hphi : 0 < phi) (l : Int) : 0 < d + l * phi ↔ -d / phi + 1 ≤ l := by
  rw [Int.add_one_le_iff, Int.ediv_lt_iff_lt_mul (by exact_mod_cast hphi)]
  omega

theorem norm_pos (hphi : 0 < phi) : 0 < norm d phi := by
  obtain hd | hd := lt_or_ge 0 d
  · rwa [norm_of_pos hd]
  · rw [norm_of_nonpos hd]
    exact (add_mul_pos_iff hphi _).mpr le_rfl

/-- A normalised number is at most phi, or it was positive already. -/
theorem norm_le_of_nonpos (hphi : 0 < phi) (hd : d ≤ 0) : norm d phi ≤ phi := by
  have hprev : ¬0 < d + (-d / phi) * phi := by
    rw [add_mul_pos_iff hphi]
    omega
  rw [norm_of_nonpos hd]
  linarith

theorem norm_modEq (d : Int) (phi : Nat) : norm d phi ≡ d [ZMOD phi] := by
  obtain hd | hd := lt_or_ge 0 d
  · rw [norm_of_pos hd]
  · rw [norm_of_nonpos hd]
    exact Int.add_mul_modulus_modEq_iff.mpr rfl

/-- Settles O36. -/
theorem normAddsTheSmallestMultiple : Obligations.NormAddsTheSmallestMultiple := by
  intro d phi hphi
  refine ⟨norm_of_pos, fun hd => ⟨?_, norm_pos hphi, norm_le_of_nonpos hphi hd⟩,
    fun e => (norm_modEq d phi).mul_right e⟩
  refine ⟨-d / phi + 1, ?_, norm_of_nonpos hd, ?_, ?_⟩
  · have := Int.ediv_nonneg (Int.neg_nonneg_of_nonpos hd) (Int.natCast_nonneg phi)
    omega
  · exact (add_mul_pos_iff hphi _).mpr le_rfl
  · exact fun l _ hl => (add_mul_pos_iff hphi l).mp hl

/-! ### GCD -/

theorem gcd_lt_of_lt {x y n : Nat} (hx : x < n) (hy : y < n) : Nat.gcd x y < n := by
  obtain rfl | hpos := Nat.eq_zero_or_pos x
  · simpa using hy
  · exact (Nat.gcd_le_left y hpos).trans_lt hx

/-- Settles O37: a gcd of operands fits every result register. -/
theorem gcdResult : Obligations.GcdResult := by
  refine ⟨decode_encode .gcd, fun s _ => ?_⟩
  rw [exec, execGcd, lastTerm_trace]
  exact congrArg _ (s.complete_one _ (gcd_lt_of_lt (s.uint_lt_rw .a) (s.uint_lt_rw .b)))

/-! ### SOLVE_BEZOUT -/

theorem execSolveBezout_of_none (h : bezout (s.uint .a) (s.uint .b) (s.sint .c) = none) :
    execSolveBezout s = .next { s with err := 2, done := true, job := none } := by
  simp only [execSolveBezout, h]
  exact congrArg _ (s.complete_error .domain .unused (by decide))

theorem signed_fits_iff {rw : Nat} : (Result.signed a).fits rw = true ↔ -2 ^ (rw - 1) ≤ a ∧ a < 2 ^ (rw - 1) := by
  simp [Result.fits]

theorem signed_pair_allFit_iff {rw : Nat} :
    (Results.mk (.signed a) (.signed b) (.unsigned 0)).allFit rw = true ↔
      (Result.signed a).fits rw = true ∧ (Result.signed b).fits rw = true := by
  simp [Results.allFit, Result.fits]

theorem execSolveBezout_of_fits (h : bezout (s.uint .a) (s.uint .b) (s.sint .c) = some (a, b))
    (hfit : (Result.signed a).fits s.rw = true ∧ (Result.signed b).fits s.rw = true) :
    execSolveBezout s = .next { s with
      res0 := encRes s.rw a, res1 := encRes s.rw b, res2 := 0, err := 0, done := true, job := none } := by
  have hzero : encRes s.rw 0 = 0 := encRes_natCast s.rw 0 (by positivity)
  simp only [execSolveBezout, h, ← hzero]
  exact congrArg _ (s.complete_ok _ (signed_pair_allFit_iff.mpr hfit))

theorem execSolveBezout_of_not_fits (h : bezout (s.uint .a) (s.uint .b) (s.sint .c) = some (a, b))
    (hfit : ¬((Result.signed a).fits s.rw = true ∧ (Result.signed b).fits s.rw = true)) :
    execSolveBezout s = .next { s with err := 4, done := true, job := none } := by
  simp only [execSolveBezout, h]
  exact congrArg _ (s.complete_overflow _ (Bool.eq_false_iff.mpr (signed_pair_allFit_iff.not.mpr hfit)))

/-- Settles O38. -/
theorem solveBezoutResult : Obligations.SolveBezoutResult := by
  refine ⟨decode_encode .solveBezout, by decide, by decide, fun t ht => ?_, fun x y _ => ?_, fun x t hx hdvd => ?_,
    fun s _ => ⟨execSolveBezout_of_none, fun a b h => ?_⟩⟩
  · exact bezout_eq_none_iff.mpr (by simpa using ht)
  · simp [bezout_of_dvd (dvd_zero _)]
  · have hzero : bezout x 0 t = some (t / x, 0) := (bezout_zero_right x t).trans (if_pos hdvd)
    refine ⟨hzero, ?_, ?_⟩
    · rw [bezout_of_lt hx, hzero]
      rfl
    · rw [bezout_of_mod_eq_zero hx le_rfl (Nat.mod_self x), if_pos hdvd]
  · rw [← and_assoc, ← signed_fits_iff, ← signed_fits_iff]
    exact ⟨execSolveBezout_of_fits h, execSolveBezout_of_not_fits h⟩

/-! ### No coefficient overflows -/

theorem bezout_natAbs_le {x y : Nat} {t : Int} (h : bezout x y t = some (a, b)) :
    a.natAbs ≤ max (Nat.gcd x y) y * t.natAbs ∧ b.natAbs ≤ max (Nat.gcd x y) x * t.natAbs := by
  have hquot : (t / Nat.gcd x y).natAbs ≤ t.natAbs := Int.natAbs_ediv_le_natAbs t _
  obtain hg | hg := Nat.eq_zero_or_pos (Nat.gcd x y)
  · obtain ⟨-, rfl, rfl⟩ := bezout_eq_some_iff.mp h
    simp [hg]
  · obtain ⟨ha, hb⟩ := bezout_natAbs_mul_gcd_le h
    exact ⟨(Nat.le_mul_of_pos_right _ hg).trans (ha.trans (Nat.mul_le_mul_left _ hquot)),
      (Nat.le_mul_of_pos_right _ hg).trans (hb.trans (Nat.mul_le_mul_left _ hquot))⟩

/-- Operands of n bits and a target of n signed bits have coefficients of 2 n signed bits. -/
theorem bezout_natAbs_lt {x y n : Nat} {t : Int} (hn : 0 < n) (hx : x < 2 ^ n) (hy : y < 2 ^ n)
    (ht : t.natAbs ≤ 2 ^ (n - 1)) (h : bezout x y t = some (a, b)) :
    a.natAbs < 2 ^ (2 * n - 1) ∧ b.natAbs < 2 ^ (2 * n - 1) := by
  have hg := gcd_lt_of_lt hx hy
  have hpow : 2 ^ (2 * n - 1) = 2 ^ n * 2 ^ (n - 1) := by rw [← pow_add]; congr 1; omega
  obtain ⟨ha, hb⟩ := bezout_natAbs_le h
  rw [hpow]
  exact ⟨ha.trans_lt (Nat.mul_lt_mul_of_lt_of_le (max_lt hg hy) ht (by positivity)),
    hb.trans_lt (Nat.mul_lt_mul_of_lt_of_le (max_lt hg hx) ht (by positivity))⟩

theorem sint_natAbs_le (s : State) (r : OpName) : (s.sint r).natAbs ≤ 2 ^ (s.opw - 1) := by
  obtain ⟨hlow, hhigh⟩ := sint_bounds s r
  zify
  exact abs_le.mpr ⟨hlow, hhigh.le⟩

theorem signed_fits_of_natAbs_lt {rw : Nat} (h : a.natAbs < 2 ^ (rw - 1)) : (Result.signed a).fits rw = true := by
  zify at h
  obtain ⟨hlow, hhigh⟩ := abs_lt.mp h
  exact signed_fits_iff.mpr ⟨hlow.le, hhigh⟩

/-- The coefficients fit their result registers in every legal configuration (41_euclid.md R137). -/
theorem solveBezout_fits (h : s.LegalConfig) (hab : bezout (s.uint .a) (s.uint .b) (s.sint .c) = some (a, b)) :
    (Result.signed a).fits s.rw = true ∧ (Result.signed b).fits s.rw = true := by
  obtain ⟨hmin, -⟩ := h.bounds
  obtain ⟨ha, hb⟩ :=
    bezout_natAbs_lt (by omega) (s.uint_lt .a) (s.uint_lt .b) (sint_natAbs_le s .c) hab
  exact ⟨signed_fits_of_natAbs_lt ha, signed_fits_of_natAbs_lt hb⟩

/-- Settles O39. -/
theorem solveBezoutSolvesTheEquation : Obligations.SolveBezoutSolvesTheEquation := by
  refine fun s h => ⟨fun hdvd => ?_, fun hdvd => execSolveBezout_of_none (bezout_eq_none_iff.mpr hdvd)⟩
  obtain ⟨hmin, hmax, -⟩ := h.bounds
  have hpos : 0 < s.rw := by unfold State.rw; omega
  have hwidth : s.rw ≤ 2048 := by unfold State.rw; omega
  have hab := bezout_of_dvd hdvd
  have hfit := solveBezout_fits h hab
  refine ⟨_, execSolveBezout_of_fits hab hfit, rfl, rfl, rfl, ?_⟩
  rw [toInt_encRes _ _ hwidth hpos hfit.1, toInt_encRes _ _ hwidth hpos hfit.2]
  exact bezout_solves hab

/-! ### MOD_INVERSE -/

/-- The number MOD_INVERSE computes for coprime operands: the coefficient of e, normalised (41_euclid.md R143). -/
def normInverse (e phi : Nat) : Int := norm (bezoutPair e phi).1 phi

section Coprime

variable {e : Nat} (h : Nat.gcd e phi = 1)
include h

theorem bezout_one_of_coprime : bezout e phi 1 = some (bezoutPair e phi) := by
  rw [bezout_eq, h]
  simp

theorem normInverse_pos : 0 < normInverse e phi := by
  obtain rfl | hphi := Nat.eq_zero_or_pos phi
  · obtain rfl : e = 1 := by simpa using h
    decide
  · exact norm_pos hphi

/-- R143: the number is an inverse of e modulo phi. -/
theorem normInverse_mul_modEq : normInverse e phi * e ≡ 1 [ZMOD phi] := by
  have hsolves := bezout_solves (bezout_one_of_coprime h)
  calc normInverse e phi * e ≡ (bezoutPair e phi).1 * e [ZMOD phi] := (norm_modEq _ phi).mul_right e
    _ ≡ (bezoutPair e phi).1 * e + (bezoutPair e phi).2 * phi [ZMOD phi] := Int.modEq_add_mul_modulus_iff.mpr rfl
    _ = 1 := hsolves

/-- R144: normalising a coefficient that is not positive gives at most phi, a positive one is at most phi by its size, and
phi is no inverse. -/
theorem normInverse_lt (hphi : 1 < phi) : normInverse e phi < phi := by
  have hle : normInverse e phi ≤ phi := by
    obtain hd | hd := le_or_gt (bezoutPair e phi).1 0
    · exact norm_le_of_nonpos (by omega) hd
    · rw [normInverse, norm_of_pos hd]
      have hsize := (bezoutPair_le e phi).1
      rw [h, mul_one, max_eq_right hphi.le] at hsize
      omega
  refine lt_of_le_of_ne hle fun heq => ?_
  have hinv := normInverse_mul_modEq h
  rw [heq] at hinv
  have hdvd : (phi : Int) ∣ 1 := hinv.dvd_iff.mp (dvd_mul_right _ _)
  have := Int.le_of_dvd one_pos hdvd
  omega

end Coprime

theorem execModInverse_of_not_coprime (h : Nat.gcd (s.uint .a) (s.uint .b) ≠ 1) :
    execModInverse s = .next { s with err := 2, done := true, job := none } := by
  have hnone : bezout (s.uint .a) (s.uint .b) 1 = none := bezout_eq_none_iff.mpr fun hdvd =>
    h (Nat.dvd_one.mp (by exact_mod_cast hdvd))
  simp only [execModInverse, hnone]
  exact congrArg _ (s.complete_error .domain .unused (by decide))

theorem execModInverse_of_coprime (h : Nat.gcd (s.uint .a) (s.uint .b) = 1) :
    execModInverse s = .next (s.complete .ok (.one (normInverse (s.uint .a) (s.uint .b)))) := by
  simp only [execModInverse, bezout_one_of_coprime h]
  rfl

theorem execModInverse_of_fits (h : Nat.gcd (s.uint .a) (s.uint .b) = 1)
    (hfit : normInverse (s.uint .a) (s.uint .b) < 2 ^ s.rw) :
    execModInverse s = .next { s with
      res0 := BitVec.ofNat 2048 (normInverse (s.uint .a) (s.uint .b)).toNat
      res1 := 0, res2 := 0, err := 0, done := true, job := none } := by
  rw [execModInverse_of_coprime h]
  obtain ⟨n, hn⟩ := Int.eq_ofNat_of_zero_le (normInverse_pos h).le
  rw [hn] at hfit ⊢
  exact congrArg _ (s.complete_one n (by exact_mod_cast hfit))

theorem execModInverse_of_not_fits (h : Nat.gcd (s.uint .a) (s.uint .b) = 1)
    (hfit : ¬normInverse (s.uint .a) (s.uint .b) < 2 ^ s.rw) :
    execModInverse s = .next { s with err := 4, done := true, job := none } := by
  rw [execModInverse_of_coprime h]
  exact congrArg _ (s.complete_overflow _ (by simp [Results.allFit, Results.one, Result.fits, hfit]))

/-- Settles O40. -/
theorem modInverseResult : Obligations.ModInverseResult := by
  refine ⟨decode_encode .modInverse, fun s _ => ⟨execModInverse_of_not_coprime, fun h => ?_⟩⟩
  refine ⟨_, _, bezout_one_of_coprime h, fun hphi => ⟨norm_pos hphi, ?_⟩, ?_⟩
  · exact Int.emod_eq_zero_of_dvd (normInverse_mul_modEq h).symm.dvd
  · split
    next hfit => exact execModInverse_of_fits h hfit
    next hfit => exact execModInverse_of_not_fits h hfit

/-- Settles O41. -/
theorem modInverseIsTheInverse : Obligations.ModInverseIsTheInverse := by
  intro s _ h hphi
  have hpos := normInverse_pos h
  have hlt := normInverse_lt h hphi
  have hinv := normInverse_mul_modEq h
  have hfit : normInverse (s.uint .a) (s.uint .b) < 2 ^ s.rw :=
    hlt.trans (by exact_mod_cast s.uint_lt_rw .b)
  refine ⟨_, ?_, ?_, ?_, execModInverse_of_fits h hfit⟩
  · omega
  · omega
  · obtain ⟨n, hn⟩ := Int.eq_ofNat_of_zero_le hpos.le
    rw [hn] at hinv ⊢
    have hinv' : n * s.uint .a ≡ 1 [MOD s.uint .b] := Int.natCast_modEq_iff.mp (by exact_mod_cast hinv)
    exact Nat.mod_eq_of_modEq hinv' hphi

end Sys2Proof.Machine
end

section
/-! The KeyGenerator command GEN_KEYS: the next state in each phase (42_keygen.md R160 to R163), when the last step
fails (R164), and the key that a success leaves (R167, R168). -/

namespace Sys2Proof.Machine

variable {s t : State} {j : Job} {d p q : Nat}

/-! ### Accepted draws -/

/-- What GEN_KEYS takes for its two primes: an accepted draw for `d` digits. -/
def AcceptedDraw (d p : Nat) : Prop := (sampleLo d ≤ p ∧ p ≤ sampleHi d) ∧ accept p = true

theorem acceptedDraw_candidate (hd : 1 ≤ d) (h : accept (s.candidate d) = true) : AcceptedDraw d (s.candidate d) :=
  ⟨candidate_mem s hd, h⟩

namespace AcceptedDraw

theorem prime (h : AcceptedDraw d p) : p.Prime := (accept_eq_true_iff_prime.mp h.2).1

theorem ne_two (h : AcceptedDraw d p) : p ≠ 2 := (accept_eq_true_iff_prime.mp h.2).2

theorem lt_pow (h : AcceptedDraw d p) : p < 10 ^ d := by
  have hpos : 0 < 10 ^ d := by positivity
  have hle := h.1.2
  unfold sampleHi at hle
  omega

/-- R168: a legal digit count is one for which n fits an operand register. -/
theorem mul_lt {opw : Nat} (hp : AcceptedDraw d p) (hd : digitsOkK opw d = true) (hq : AcceptedDraw d q) :
    p * q < 2 ^ opw :=
  calc p * q ≤ sampleHi d * sampleHi d := Nat.mul_le_mul hp.1.2 hq.1.2
    _ = sampleHi d ^ 2 := (sq _).symm
    _ < 2 ^ opw := (digitsOkK_iff.mp hd).2

theorem one_lt_phi (hp : AcceptedDraw d p) (hq : AcceptedDraw d q) : 1 < (p - 1) * (q - 1) := by
  have two_le {r : Nat} (hr : AcceptedDraw d r) : 2 ≤ r - 1 := by
    have := hr.prime.two_le
    have := hr.ne_two
    omega
  have := Nat.mul_le_mul (two_le hp) (two_le hq)
  omega

end AcceptedDraw

/-- In SAMPLE_Q the invariant says that psaved is an accepted draw of a legal digit count. -/
theorem State.Inv.psaved (h : s.Inv) (hj : s.job = some j) (hd : decode j.word = .legal .genKeys)
    (hph : j.phase = .sampleQ) : digitsOkK s.opw (s.uint .a) = true ∧ AcceptedDraw (s.uint .a) j.psaved := by
  obtain ⟨-, -, -, -, hjob⟩ := h
  simp only [State.jobOk, hj, State.phaseOk, hd, hph, Bool.and_eq_true, decide_eq_true_eq] at hjob
  obtain ⟨-, ⟨⟨hdig, hlo⟩, hhi⟩, hacc⟩ := hjob
  exact ⟨hdig, ⟨hlo, hhi⟩, hacc⟩

/-- A GEN_KEYS is never in EXEC. -/
theorem State.Inv.genKeys_phase (h : s.Inv) (hj : s.job = some j) (hd : decode j.word = .legal .genKeys) :
    j.phase = .sampleP ∨ j.phase = .sampleQ := by
  obtain ⟨-, -, -, -, hjob⟩ := h
  cases hph : j.phase with
  | exec => simp [State.jobOk, hj, State.phaseOk, hd, hph] at hjob
  | sampleP => exact .inl rfl
  | sampleQ => exact .inr rfl

/-! ### Phase SAMPLE_P -/

theorem execGenKeys_of_sampleP (hj : s.job = some j) (hph : j.phase = .sampleP) : execGenKeys s = .next s.genKeysP := by
  simp [execGenKeys, State.savedPrime, hj, hph]

/-- GEN_KEYS refuses a digit count out of range without a draw (42_keygen.md R160, R161). -/
theorem genKeysP_of_digits_refused (hd : digitsOkK s.opw (s.uint .a) = false) :
    s.genKeysP = { s with err := 3, done := true, job := none } := by
  rw [State.genKeysP, if_neg (by simp [hd])]
  exact s.complete_error .arg .unused (by decide)

theorem genKeysP_of_digits_ok (hd : digitsOkK s.opw (s.uint .a) = true) :
    s.genKeysP =
      if accept (s.candidate (s.uint .a)) then s.afterDraw.savePrime (s.candidate (s.uint .a)) else s.afterDraw :=
  if_pos hd

/-- Settles O42. -/
theorem genKeysFirstPhase : Obligations.GenKeysFirstPhase := by
  refine ⟨decode_encode .genKeys, fun s j _ hj hph => ⟨fun hd => ?_, fun hpos hhi => ?_⟩⟩
  · rw [exec, execGenKeys_of_sampleP hj hph,
      genKeysP_of_digits_refused (Bool.eq_false_iff.mpr (digitsOkK_iff.not.mpr hd))]
  · have hsave (c : Nat) : s.afterDraw.savePrime c =
        { s.afterDraw with job := some { word := j.word, phase := .sampleQ, psaved := c } } := by
      simp [State.savePrime, hj]
    rw [exec, execGenKeys_of_sampleP hj hph, genKeysP_of_digits_ok (digitsOkK_iff.mpr ⟨hpos, hhi⟩), hsave,
      apply_ite Host.Outcome.next]
    rfl

/-- A first step that ends GEN_KEYS ends it with ERR_ARG: an accepted draw only starts the search for q. -/
theorem genKeysP_err_of_idle (hj : s.job = some j) (hidle : s.genKeysP.job = none) : s.genKeysP.err = 3 := by
  cases hd : digitsOkK s.opw (s.uint .a) with
  | false => rw [genKeysP_of_digits_refused hd]
  | true =>
    rw [genKeysP_of_digits_ok hd] at hidle
    split at hidle <;> simp [hj] at hidle

/-! ### Phase SAMPLE_Q -/

theorem execGenKeys_of_sampleQ (hj : s.job = some j) (hph : j.phase = .sampleQ) :
    execGenKeys s = .next (s.genKeysQ j.psaved) := by
  simp [execGenKeys, State.savedPrime, hj, hph]

theorem genKeysQ_of_rejected (h : accept (s.candidate (s.uint .a)) = false) : s.genKeysQ p = s.afterDraw := by
  simp [State.genKeysQ, h]

theorem genKeysQ_of_accepted (h : accept (s.candidate (s.uint .a)) = true) :
    s.genKeysQ p = s.afterDraw.keygenFinal p (s.candidate (s.uint .a)) :=
  if_pos h

/-! ### The last step -/

/-- The state after GEN_KEYS has found the key with modulus `n` and decryption exponent `dk`. -/
def State.foundKey (s : State) (n dk : Nat) : State :=
  { s with
    res0 := BitVec.ofNat 2048 n, res1 := 65537, res2 := BitVec.ofNat 2048 dk
    err := 0, done := true, job := none }

theorem keygenFinal_of_none (h : bezout 65537 ((p - 1) * (q - 1)) 1 = none) :
    s.keygenFinal p q = { s with err := 2, done := true, job := none } := by
  simp only [State.keygenFinal, Config.eFixed, h]
  exact s.complete_error .domain .unused (by decide)

theorem State.two_pow_opw_le (s : State) : 2 ^ s.opw ≤ 2 ^ s.rw :=
  Nat.pow_le_pow_right (by decide) (by unfold State.rw; omega)

/-- A register has far more than the 17 bits of 65537. -/
theorem State.LegalConfig.eFixed_lt (h : s.LegalConfig) : 65537 < 2 ^ s.opw := by
  obtain ⟨hmin, -⟩ := h.bounds
  have hwidth : 17 ≤ s.opw := by omega
  calc 65537 < 2 ^ 17 := by decide
    _ ≤ 2 ^ s.opw := Nat.pow_le_pow_right (by decide) hwidth

/-- So the results of GEN_KEYS fit when n and the decryption exponent do. -/
theorem key_allFit_iff (h : s.LegalConfig) {n : Nat} {dk : Int} :
    (Results.mk (.unsigned (n : Int)) (.unsigned 65537) (.unsigned dk)).allFit s.rw = true ↔
      n < 2 ^ s.rw ∧ 0 ≤ dk ∧ dk < 2 ^ s.rw := by
  have he : (65537 : Int) < 2 ^ s.rw := by exact_mod_cast h.eFixed_lt.trans_le s.two_pow_opw_le
  have hn : (n : Int) < 2 ^ s.rw ↔ n < 2 ^ s.rw := by exact_mod_cast Iff.rfl
  simp [Results.allFit, Result.fits, he, hn]

/-- A key whose numbers fit is written as it is. -/
theorem complete_key (h : s.LegalConfig) {n : Nat} {dk : Int} (hfit : n < 2 ^ s.rw ∧ 0 ≤ dk ∧ dk < 2 ^ s.rw) :
    s.complete .ok ⟨.unsigned (n : Int), .unsigned 65537, .unsigned dk⟩ = s.foundKey n dk.toNat := by
  obtain ⟨hn, hpos, hlt⟩ := hfit
  obtain ⟨k, rfl⟩ := Int.eq_ofNat_of_zero_le hpos
  have hk : k < 2 ^ s.rw := by exact_mod_cast hlt
  rw [s.complete_ok _ ((key_allFit_iff h).mpr ⟨hn, hpos, hlt⟩)]
  have he : encRes s.rw 65537 = 65537 := encRes_natCast s.rw 65537 (h.eFixed_lt.trans_le s.two_pow_opw_le)
  simp [Result.value, encRes_natCast, State.foundKey, hn, hk, he]

theorem keygenFinal_of_some {dk k : Int} (h : s.LegalConfig)
    (hb : bezout 65537 ((p - 1) * (q - 1)) 1 = some (dk, k)) :
    s.keygenFinal p q =
      if p * q < 2 ^ s.rw ∧ 0 ≤ norm dk ((p - 1) * (q - 1)) ∧ norm dk ((p - 1) * (q - 1)) < 2 ^ s.rw then
        s.foundKey (p * q) (norm dk ((p - 1) * (q - 1))).toNat
      else { s with err := 4, done := true, job := none } := by
  simp only [State.keygenFinal, Config.eFixed, hb]
  split
  next hfit => exact complete_key h hfit
  next hfit => exact s.complete_overflow _ (Bool.eq_false_iff.mpr ((key_allFit_iff h).not.mpr hfit))

/-- Settles O43: the last step acts on the state after the draw. -/
theorem genKeysSecondPhase : Obligations.GenKeysSecondPhase := by
  intro s j h hj hph
  dsimp only
  rw [exec, execGenKeys_of_sampleQ hj hph]
  have hdraw : s.afterDraw.LegalConfig := h
  refine ⟨fun hrej => ?_, fun hacc hnone => ?_, fun dk k hacc hsome => ?_⟩
  · exact congrArg _ (genKeysQ_of_rejected hrej)
  · exact congrArg _ ((genKeysQ_of_accepted hacc).trans (keygenFinal_of_none hnone))
  · rw [genKeysQ_of_accepted hacc]
    exact (congrArg _ (keygenFinal_of_some hdraw hsome)).trans (apply_ite _ _ _ _)

/-! ### When the last step fails -/

/-- R164: 65537 is prime, so it has a common factor with phi only when it divides phi. -/
theorem gcd_eFixed_eq_one_iff {phi : Nat} : Nat.gcd 65537 phi = 1 ↔ ¬65537 ∣ phi :=
  Nat.Prime.coprime_iff_not_dvd (by norm_num)

theorem keygenFinal_of_dvd (h : 65537 ∣ (p - 1) * (q - 1)) :
    s.keygenFinal p q = { s with err := 2, done := true, job := none } :=
  keygenFinal_of_none <| bezout_eq_none_iff.mpr fun hone =>
    gcd_eFixed_eq_one_iff.not_left.mpr h (Nat.dvd_one.mp (by exact_mod_cast hone))

/-- The decryption exponent is below phi and so below n, which fits an operand register. -/
theorem normInverse_toNat_lt_of_acceptedDraw {opw : Nat} (hd : digitsOkK opw d = true) (hp : AcceptedDraw d p)
    (hq : AcceptedDraw d q) (hdvd : ¬65537 ∣ (p - 1) * (q - 1)) :
    (normInverse 65537 ((p - 1) * (q - 1))).toNat < 2 ^ opw := by
  have hlt := normInverse_lt (gcd_eFixed_eq_one_iff.mpr hdvd) (hp.one_lt_phi hq)
  calc (normInverse 65537 ((p - 1) * (q - 1))).toNat ≤ (p - 1) * (q - 1) := by omega
    _ ≤ p * q := Nat.mul_le_mul (Nat.sub_le p 1) (Nat.sub_le q 1)
    _ < 2 ^ opw := hp.mul_lt hd hq

/-- From accepted draws of a legal digit count, a last step that does not fail leaves a key: nothing overflows. -/
theorem keygenFinal_of_not_dvd (h : s.LegalConfig) (hd : digitsOkK s.opw d = true) (hp : AcceptedDraw d p)
    (hq : AcceptedDraw d q) (hdvd : ¬65537 ∣ (p - 1) * (q - 1)) :
    s.keygenFinal p q = s.foundKey (p * q) (normInverse 65537 ((p - 1) * (q - 1))).toNat := by
  have hcop := gcd_eFixed_eq_one_iff.mpr hdvd
  have hpos := (normInverse_pos hcop).le
  have hn := (hp.mul_lt hd hq).trans_le s.two_pow_opw_le
  have hdk := (normInverse_toNat_lt_of_acceptedDraw hd hp hq hdvd).trans_le s.two_pow_opw_le
  rw [keygenFinal_of_some h (bezout_one_of_coprime hcop)]
  exact if_pos ⟨hn, hpos, (Int.toNat_lt hpos).mp (by exact_mod_cast hdk)⟩

/-- Settles O44. -/
theorem genKeysFailsExactlyWhenEDividesPhi : Obligations.GenKeysFailsExactlyWhenEDividesPhi := by
  intro s j h hj hd hph hacc
  obtain ⟨hdig, hp⟩ := h.psaved hj hd hph
  have hq := acceptedDraw_candidate (digitsOkK_iff.mp hdig).1 hacc
  refine ⟨_, execGenKeys_of_sampleQ hj hph, ?_⟩
  rw [genKeysQ_of_accepted hacc]
  by_cases hdvd : 65537 ∣ (j.psaved - 1) * (s.candidate (s.uint .a) - 1)
  · rw [keygenFinal_of_dvd hdvd]
    exact ⟨rfl, iff_of_true rfl hdvd, .inl rfl⟩
  · rw [keygenFinal_of_not_dvd (s := s.afterDraw) h.1 hdig hp hq hdvd]
    exact ⟨rfl, iff_of_false (by decide : (0 : Code) ≠ 2) hdvd, .inr rfl⟩

/-! ### The key -/

/-- R143, R167: the inverse is positive, so it is one as a natural number too. -/
theorem normInverse_toNat_mul_mod {e phi : Nat} (h : Nat.gcd e phi = 1) :
    (normInverse e phi).toNat * e % phi = 1 % phi := by
  have hcast : ((normInverse e phi).toNat : Int) = normInverse e phi := Int.toNat_of_nonneg (normInverse_pos h).le
  have hinv := normInverse_mul_modEq h
  rw [← hcast] at hinv
  exact Int.natCast_modEq_iff.mp (by exact_mod_cast hinv)

/-- A GEN_KEYS that ends with ERR_OK did so in SAMPLE_Q: it accepted the draw of q and 65537 does not divide phi. -/
theorem execGenKeys_eq_next_key (h : s.Inv) (hj : s.job = some j) (hd : decode j.word = .legal .genKeys)
    (ht : execGenKeys s = .next t) (hidle : t.job = none) (herr : t.err = 0) :
    ∃ p q : Nat, digitsOkK s.opw (s.uint .a) = true ∧ AcceptedDraw (s.uint .a) p ∧ AcceptedDraw (s.uint .a) q ∧
      ¬65537 ∣ (p - 1) * (q - 1) ∧
      t = s.afterDraw.foundKey (p * q) (normInverse 65537 ((p - 1) * (q - 1))).toNat := by
  obtain hph | hph := h.genKeys_phase hj hd
  · cases (execGenKeys_of_sampleP hj hph).symm.trans ht
    rw [genKeysP_err_of_idle hj hidle] at herr
    exact absurd herr (by decide)
  · cases (execGenKeys_of_sampleQ hj hph).symm.trans ht
    obtain ⟨hdig, hp⟩ := h.psaved hj hd hph
    cases hacc : accept (s.candidate (s.uint .a)) with
    | false =>
      rw [genKeysQ_of_rejected hacc] at hidle
      exact absurd (hj.symm.trans hidle) (by simp)
    | true =>
      have hq := acceptedDraw_candidate (digitsOkK_iff.mp hdig).1 hacc
      rw [genKeysQ_of_accepted hacc] at herr ⊢
      have hdvd : ¬65537 ∣ (j.psaved - 1) * (s.candidate (s.uint .a) - 1) := fun hdvd => by
        rw [keygenFinal_of_dvd hdvd] at herr
        exact absurd herr (by decide : (2 : Code) ≠ 0)
      exact ⟨_, _, hdig, hp, hq, hdvd, keygenFinal_of_not_dvd (s := s.afterDraw) h.1 hdig hp hq hdvd⟩

/-- A result register holds a number of OPW bits itself. -/
theorem State.LegalConfig.toNat_ofNat (h : s.LegalConfig) {n : Nat} (hn : n < 2 ^ s.opw) :
    (BitVec.ofNat 2048 n).toNat = n := by
  obtain ⟨-, hmax, -⟩ := h.bounds
  have hwidth : s.opw ≤ 2048 := by omega
  rw [BitVec.toNat_ofNat, Nat.mod_eq_of_lt (hn.trans_le (Nat.pow_le_pow_right (by decide) hwidth))]

theorem foundKey_results_toNat (h : s.LegalConfig) {n dk : Nat} (hn : n < 2 ^ s.opw) (hdk : dk < 2 ^ s.opw) :
    (s.foundKey n dk).res0.toNat = n ∧ (s.foundKey n dk).res1.toNat = 65537 ∧ (s.foundKey n dk).res2.toNat = dk :=
  ⟨h.toNat_ofNat hn, h.toNat_ofNat (n := 65537) h.eFixed_lt, h.toNat_ofNat hdk⟩

/-- Settles O45. -/
theorem genKeysLeavesAKey : Obligations.GenKeysLeavesAKey := by
  intro s j t h hj hd ht hidle herr
  obtain ⟨p, q, hdig, hp, hq, hdvd, rfl⟩ := execGenKeys_eq_next_key h hj hd ht hidle herr
  have hcop := gcd_eFixed_eq_one_iff.mpr hdvd
  have hn := hp.mul_lt hdig hq
  obtain ⟨h0, h1, h2⟩ := foundKey_results_toNat (s := s.afterDraw) h.1 hn
    (normInverse_toNat_lt_of_acceptedDraw hdig hp hq hdvd)
  refine ⟨p, q, hp.prime, hq.prime, hp.ne_two, hq.ne_two, hp.1.1, hp.lt_pow, hq.1.1, hq.lt_pow, h0, hn, h1, ?_, ?_⟩
  · rw [h2]
    exact Int.lt_toNat.mpr (normInverse_pos hcop)
  · rw [h2]
    exact normInverse_toNat_mul_mod hcop

end Sys2Proof.Machine
end

section
/-! The Cipher commands ENCRYPT and DECRYPT: repeated squaring computes the power (43_cipher.md R170), the next state of
both commands (R171 to R175), and that DECRYPT undoes ENCRYPT (R176). -/

namespace Sys2Proof.Machine

variable {s : State} {p q d e k m : Nat}

/-! ### Repeated squaring -/

theorem sq_mod_pow_modEq (x j n : Nat) : (x * x % n) ^ j ≡ x ^ (2 * j) [MOD n] := by
  rw [pow_mul, pow_two]
  exact (Nat.mod_modEq _ n).pow j

/-- The loop's invariant: `r * x ^ k` keeps its residue, and with no more than `fuel` rounds to go it ends as `r`. -/
theorem modexpLoop_eq {fuel : Nat} (n : Nat) (hk : k ≤ fuel) (r x : Nat) :
    modexpLoop fuel (r % n) x k n = r * x ^ k % n := by
  induction fuel generalizing r x k with
  | zero =>
    obtain rfl : k = 0 := Nat.le_zero.mp hk
    simp [modexpLoop]
  | succ fuel ih =>
    obtain rfl | hpos := Nat.eq_zero_or_pos k
    · simp [modexpLoop]
    · have hhalf : k / 2 ≤ fuel := by omega
      rw [modexpLoop, if_neg hpos.ne']
      split
      next hodd =>
        have hsplit : 2 * (k / 2) + 1 = k := by omega
        calc modexpLoop fuel (r % n * x % n) (x * x % n) (k / 2) n
            = modexpLoop fuel (r * x % n) (x * x % n) (k / 2) n := by rw [Nat.mod_mul_mod]
          _ = r * x * (x * x % n) ^ (k / 2) % n := ih hhalf _ _
          _ = r * x * x ^ (2 * (k / 2)) % n := (sq_mod_pow_modEq x (k / 2) n).mul_left _
          _ = r * x ^ k % n := by rw [mul_assoc, ← pow_succ', hsplit]
      next heven =>
        have hsplit : 2 * (k / 2) = k := by omega
        calc modexpLoop fuel (r % n) (x * x % n) (k / 2) n
            = r * (x * x % n) ^ (k / 2) % n := ih hhalf _ _
          _ = r * x ^ (2 * (k / 2)) % n := (sq_mod_pow_modEq x (k / 2) n).mul_left _
          _ = r * x ^ k % n := by rw [hsplit]

theorem modexp_eq (b k n : Nat) : modexp b k n = b ^ k % n := by
  rw [modexp, modexpLoop_eq n le_rfl, one_mul, ← Nat.pow_mod]

/-- Settles O46: the loop starts from the residues of 1 and b. -/
theorem modexpIsThePower : Obligations.ModexpIsThePower := fun b k n _ => modexp_eq b k n

/-! ### ENCRYPT and DECRYPT -/

theorem cipherStep_of_modulus_zero (hb : s.uint .b = 0) :
    s.cipherStep = { s with err := 3, done := true, job := none } := by
  rw [State.cipherStep, if_pos hb]
  exact s.complete_error .arg .unused (by decide)

/-- The state after ENCRYPT or DECRYPT with a modulus above 0. -/
def State.ciphered (s : State) : State :=
  { s with
    res0 := BitVec.ofNat 2048 (s.uint .a ^ s.uint .c % s.uint .b)
    res1 := 0, res2 := 0, err := 0, done := true, job := none }

/-- A residue of the modulus fits every result register. -/
theorem cipherStep_of_modulus_pos (hb : 0 < s.uint .b) : s.cipherStep = s.ciphered := by
  rw [State.cipherStep, if_neg hb.ne', modexp_eq]
  exact s.complete_one _ ((Nat.mod_lt _ hb).trans (s.uint_lt_rw .b))

/-- R175: the two commands are one function. -/
theorem exec_cipher {i : Instr} (hi : i ∈ [Instr.encrypt, .decrypt]) (s : State) : exec i s = .next s.cipherStep := by
  obtain rfl | rfl : i = .encrypt ∨ i = .decrypt := by simpa using hi
  · rfl
  · rfl

/-- Settles O47. -/
theorem encryptAndDecryptResult : Obligations.EncryptAndDecryptResult := by
  refine ⟨decode_encode .encrypt, decode_encode .decrypt, fun s i _ hi => ?_⟩
  rw [exec_cipher hi]
  exact ⟨fun hb => congrArg _ (cipherStep_of_modulus_zero hb), fun hb => congrArg _ (cipherStep_of_modulus_pos hb)⟩

theorem ciphered_res0_toNat (h : s.LegalConfig) (hb : 0 < s.uint .b) :
    s.ciphered.res0.toNat = s.uint .a ^ s.uint .c % s.uint .b :=
  h.toNat_ofNat ((Nat.mod_lt _ hb).trans (s.uint_lt .b))

/-! ### DECRYPT undoes ENCRYPT -/

/-- Fermat's little theorem, for every base: a positive exponent counts modulo `p - 1`. -/
theorem pow_modEq_self_of_prime (hp : p.Prime) (hk : 0 < k) (h : k ≡ 1 [MOD p - 1]) (m : Nat) : m ^ k ≡ m [MOD p] := by
  have hdvd : p - 1 ∣ k - 1 := (Nat.modEq_iff_dvd' hk).mp h.symm
  have hpow : (m : Int) ^ k ≡ (m : Int) ^ 1 [ZMOD p] := Int.ModEq.pow_eq_pow hp hdvd hk one_pos m
  exact Int.natCast_modEq_iff.mp (by simpa using hpow)

/-- phi is 1 only for p = q = 2, so 0 is not 1 modulo phi. -/
theorem pos_of_modEq_one_phi (hne : p ≠ q) (h : k ≡ 1 [MOD (p - 1) * (q - 1)]) : 0 < k := by
  refine Nat.pos_of_ne_zero fun hk => hne ?_
  subst hk
  have hphi : (p - 1) * (q - 1) = 1 := Nat.dvd_one.mp (Nat.modEq_zero_iff_dvd.mp h.symm)
  obtain ⟨hp1, hq1⟩ := mul_eq_one.mp hphi
  omega

/-- RSA correctness (42_keygen.md R167): the congruence holds modulo p and modulo q, and so modulo p * q. -/
theorem pow_mod_pow_mod_eq_self (hp : p.Prime) (hq : q.Prime) (hne : p ≠ q)
    (h : d * e ≡ 1 [MOD (p - 1) * (q - 1)]) (hm : m < p * q) : (m ^ e % (p * q)) ^ d % (p * q) = m := by
  have hpos := pos_of_modEq_one_phi hne h
  have hmodp : m ^ (d * e) ≡ m [MOD p] := pow_modEq_self_of_prime hp hpos (h.of_mul_right _) m
  have hmodq : m ^ (d * e) ≡ m [MOD q] := pow_modEq_self_of_prime hq hpos (h.of_mul_left _) m
  have hcop : p.Coprime q := (Nat.coprime_primes hp hq).mpr hne
  rw [← Nat.pow_mod, ← pow_mul, mul_comm e d]
  exact Nat.mod_eq_of_modEq ((Nat.modEq_and_modEq_iff_modEq_mul hcop).mp ⟨hmodp, hmodq⟩) hm

/-- Settles O48. -/
theorem decryptUndoesEncrypt : Obligations.DecryptUndoesEncrypt := by
  intro p q d m s t u hs hp hq hne hinv hm hsa hsb hsc ht hu hua hub huc
  have hn : 0 < p * q := Nat.mul_pos hp.pos hq.pos
  have hsb_pos : 0 < s.uint .b := hsb ▸ hn
  have hub_pos : 0 < u.uint .b := hub ▸ hn
  rw [exec_cipher (by decide), cipherStep_of_modulus_pos hsb_pos] at ht
  cases ht
  rw [ciphered_res0_toNat hs hsb_pos, hsa, hsb, hsc] at hua
  refine ⟨u.ciphered, ?_, rfl, ?_⟩
  · rw [exec_cipher (by decide), cipherStep_of_modulus_pos hub_pos]
  · rw [ciphered_res0_toNat hu hub_pos, hua, hub, huc]
    exact pow_mod_pow_mod_eq_self hp hq hne hinv hm

end Sys2Proof.Machine
end

section
/-! The life of a command (60_exceptions.md): acceptance and overrun of a host write (R184, R189), the engine step of a
running, an illegal or no command (R185, R187, R200), completion (R182, R186, R191), what a step that only draws shows the
host (R194), the range of a draw (R195), and that nothing traps (R180). -/

namespace Sys2Proof.Machine

variable {s t : State} {off : Offset} {w : Word} {j : Job}

/-! ### Completion -/

theorem unsigned_fits_iff {rw : Nat} {v : Int} : (Result.unsigned v).fits rw = true ↔ 0 ≤ v ∧ v < 2 ^ rw := by
  simp [Result.fits]

theorem allFit_iff {rw : Nat} {rs : Results} :
    rs.allFit rw = true ↔ rs.r0.fits rw = true ∧ rs.r1.fits rw = true ∧ rs.r2.fits rw = true := by
  simp [Results.allFit, and_assoc]

theorem allFit_eq_false_iff {rw : Nat} {rs : Results} :
    rs.allFit rw = false ↔ rs.r0.fits rw = false ∨ rs.r1.fits rw = false ∨ rs.r2.fits rw = false := by
  simp only [Results.allFit, Bool.and_eq_false_iff, or_assoc]

/-- Settles O25. -/
theorem completionWritesAllOrNothing : Obligations.CompletionWritesAllOrNothing := by
  intro s err rs
  refine ⟨?_, ?_, s.complete_error err rs, fun _ => unsigned_fits_iff, fun _ => signed_fits_iff⟩
  · rintro rfl hfit
    exact s.complete_ok rs (allFit_iff.mpr hfit)
  · rintro rfl hfit
    exact s.complete_overflow rs (allFit_eq_false_iff.mpr hfit)

/-! ### The engine step of a running command -/

@[simp] theorem State.afterDraw_busy (s : State) : s.afterDraw.busy = s.busy := rfl

@[simp] theorem State.savePrime_busy (s : State) (p : Nat) : (s.savePrime p).busy = s.busy := by
  simp [State.busy]

/-- `engineStep_cases` for a step that ends the command: only a completion ends one. -/
theorem engineStep_ending (hb : s.busy = true) (h : engineStep s = .next t) (ht : t.busy = false) :
    ∃ err rs, t = s.complete err rs ∨ t = s.afterDraw.complete err rs := by
  obtain ⟨t', ht', ⟨hidle, -⟩ | ⟨-, hcases⟩⟩ := engineStep_cases s <;> cases ht'.symm.trans h
  · exact absurd hidle (busy_eq_true_iff.mp hb)
  obtain ⟨err, rs, e⟩ | ⟨err, rs, e⟩ | rfl | ⟨p, rfl⟩ := hcases
  · exact ⟨err, rs, .inl e⟩
  · exact ⟨err, rs, .inr e⟩
  · simp [hb] at ht
  · simp [hb] at ht

/-- `engineStep_cases` for a step that leaves the command running: it draws, and GEN_KEYS may save its first prime. -/
theorem engineStep_running (hb : s.busy = true) (h : engineStep s = .next t) (ht : t.busy = true) :
    t = s.afterDraw ∨ ∃ p, t = s.afterDraw.savePrime p := by
  obtain ⟨t', ht', ⟨hidle, -⟩ | ⟨-, hcases⟩⟩ := engineStep_cases s <;> cases ht'.symm.trans h
  · exact absurd hidle (busy_eq_true_iff.mp hb)
  obtain ⟨err, rs, rfl⟩ | ⟨err, rs, rfl⟩ | hdrew := hcases
  · cases ht
  · cases ht
  · exact hdrew

/-- A completion that records an error keeps the operands, the results and LASTOP (60_exceptions.md R182, R191). -/
theorem complete_frame_of_error (s : State) {err : ErrCode} {rs : Results} (h : (s.complete err rs).err ≠ 0) :
    (s.complete err rs).opa = s.opa ∧ (s.complete err rs).opb = s.opb ∧ (s.complete err rs).opc = s.opc ∧
    (s.complete err rs).res0 = s.res0 ∧ (s.complete err rs).res1 = s.res1 ∧ (s.complete err rs).res2 = s.res2 ∧
    (s.complete err rs).done = true ∧ (s.complete err rs).lastop = s.lastop :=
  have ⟨h0, h1, h2⟩ := complete_keeps_results_of_error s h
  ⟨rfl, rfl, rfl, h0, h1, h2, rfl, rfl⟩

/-- Settles O51: such a step is a completion with an error, of the state before or after a draw. -/
theorem errorsLeaveOperandsAndResults : Obligations.ErrorsLeaveOperandsAndResults := by
  intro s t hb h ht herr
  obtain ⟨err, rs, rfl | rfl⟩ := engineStep_ending hb h ht
  · exact complete_frame_of_error s herr
  · exact complete_frame_of_error s.afterDraw herr

/-- The window shows no field of JOB but BUSY. -/
theorem readWord_savePrime (s : State) (p : Nat) (off : Offset) : (s.savePrime p).readWord off = s.readWord off := by
  have hstatus : (s.savePrime p).statusWord = s.statusWord := by simp [State.statusWord]
  unfold State.readWord
  rw [hstatus]
  rfl

/-- Settles O54: the window shows neither the entropy source nor the phase of a job. -/
theorem samplingIsInvisible : Obligations.SamplingIsInvisible := by
  intro s t hb h ht
  obtain rfl | ⟨p, rfl⟩ := engineStep_running hb h ht
  · exact ⟨fun _ => rfl, rfl⟩
  · exact ⟨readWord_savePrime s.afterDraw p, rfl⟩

/-! ### What the engine runs -/

theorem step_of_engine (hc : s.chosen = .engine) : step s = engineStep s.advance := by
  rw [step, hc, agentStep]

theorem engineStep_of_idle (hj : s.job = none) : engineStep s = .next s := by
  simp only [engineStep, hj]

theorem engineStep_of_legal {i : Instr} (hj : s.job = some j) (hd : decode j.word = .legal i) :
    engineStep s = exec i s := by
  simp only [engineStep, hj, hd]

theorem engineStep_of_illegal {why : Illegal} (hj : s.job = some j) (hd : decode j.word = .illegal why) :
    engineStep s = .next s.completeIllegal := by
  simp only [engineStep, hj, hd]

/-- Settles O22. -/
theorem stepRunsTheDecodedCommand : Obligations.StepRunsTheDecodedCommand := fun s _ _ hc hj hd _ =>
  (step_of_engine hc).trans (engineStep_of_legal (s := s.advance) hj hd)

/-- Settles O23. -/
theorem illegalWordCompletes : Obligations.IllegalWordCompletes := fun s _ _ hj hd =>
  (engineStep_of_illegal hj hd).trans (congrArg _ (s.complete_error .illegal .unused (by decide)))

/-- Settles O24. -/
theorem idleEngineHasNoStep : Obligations.IdleEngineHasNoStep := fun s hc hj =>
  (step_of_engine hc).trans (engineStep_of_idle (s := s.advance) hj)

/-! ### Acceptance and overrun of a host write -/

/-- The two commands that sample start in SAMPLE_P (10_state.md R34). -/
theorem startPhase_eq_ite (w : Word) :
    startPhase w = if decode w = .legal .findPrime ∨ decode w = .legal .genKeys then .sampleP else .exec := by
  unfold startPhase
  cases decode w with
  | illegal why => simp
  | legal i => cases i <;> simp

/-- Settles O14. -/
theorem commandWriteIsAccepted : Obligations.CommandWriteIsAccepted := by
  intro s w rest hf hj hp
  rw [State.hostStep_wr hf hp rfl, writeWord_cmd_idle hj, ← startPhase_eq_ite]
  rfl

theorem exists_opPage_eq {n : Nat} (hlo : 1 ≤ n) (hhi : n ≤ 3) : ∃ r, opPage r = n := by
  obtain rfl | rfl | rfl : n = 1 ∨ n = 2 ∨ n = 3 := by omega
  exacts [⟨.a, rfl⟩, ⟨.b, rfl⟩, ⟨.c, rfl⟩]

/-- The offsets of the operand words (20_memory.md R66, R67). -/
theorem exists_locate_eq_op (hlo : 0x100 ≤ off.toNat) (hhi : off.toNat ≤ 0x3FF) (hi : off.toNat % 0x100 / 4 < s.nw) :
    ∃ r, locate s.nw off = .op r (off.toNat % 0x100 / 4) := by
  obtain ⟨r, hr⟩ := exists_opPage_eq (n := off.toNat / 0x100) (by omega) (by omega)
  exact ⟨r, locate_eq_op_iff.mpr ⟨hr.symm, rfl, hi⟩⟩

theorem writeWord_op_busy {r : OpName} {i : Nat} (hl : locate s.nw off = .op r i) (hj : s.job ≠ none) :
    s.writeWord off w = s.overrun := by
  simp [State.writeWord, hl, busy_eq_true_iff.mpr hj]

/-- Settles O15. -/
theorem overrunDropsTheWrite : Obligations.OverrunDropsTheWrite := by
  intro s off data rest hf hj hp ha
  rw [State.hostStep_wr hf hp ha]
  refine ⟨?_, ?_, ?_⟩
  · rintro (rfl | ⟨hlo, hhi, hi⟩)
    · rw [writeWord_cmd_busy hj, State.overrun]
    · obtain ⟨r, hl⟩ := exists_locate_eq_op hlo hhi hi
      rw [writeWord_op_busy hl hj, State.overrun]
  · rintro rfl
    rfl
  · rintro rfl
    rfl

/-! ### The range of a draw -/

/-- Settles O29. -/
theorem drawStaysInItsRange : Obligations.DrawStaysInItsRange := fun s _ hd =>
  ⟨candidate_mem s hd, fun _ _ => candidate_of_queued⟩

/-! ### Every step answers -/

/-- OPW and BASE, the parameters of the implementation (00_scope.md R6, 20_memory.md R63). -/
def State.params (s : State) : Nat × Nat := (s.opw, s.base)

theorem writeWord_params (s : State) (off : Offset) (w : Word) : (s.writeWord off w).params = s.params := by
  obtain e | ⟨-, e⟩ | ⟨-, e⟩ | ⟨-, e⟩ | ⟨-, -, e⟩ | ⟨-, r, i, -, e⟩ := s.writeWord_cases off w <;>
    simp [State.params, e]

theorem hostStep_params (s : State) : s.hostStep.params = s.params := by
  obtain e | ⟨off, -, e⟩ | ⟨off, rest, -, e | e⟩ | ⟨off, w, rest, -, -, -, e⟩ := s.hostStep_cases <;> rw [e]
  · rfl
  · rfl
  · rfl
  · exact writeWord_params s off w

theorem engineStep_params (h : engineStep s = .next t) : t.params = s.params := by
  obtain ⟨t', ht', ⟨-, rfl⟩ | ⟨-, hcases⟩⟩ := engineStep_cases s <;> cases ht'.symm.trans h
  · rfl
  obtain ⟨err, rs, rfl⟩ | ⟨err, rs, rfl⟩ | rfl | ⟨p, rfl⟩ := hcases <;> rfl

theorem step_params (h : step s = .next t) : t.params = s.params := by
  obtain ⟨t', ht', ⟨-, rfl⟩ | ⟨-, he⟩ | ⟨-, rfl⟩⟩ := step_cases s <;> cases ht'.symm.trans h
  · exact hostStep_params s.advance
  · exact engineStep_params (s := s.advance) he
  · rfl

/-- Settles O59. -/
theorem stepAlwaysAnswers : Obligations.StepAlwaysAnswers := fun s =>
  have ⟨t, ht, _⟩ := step_cases s
  ⟨t, ht, Prod.mk.inj (step_params ht)⟩

end Sys2Proof.Machine
end

section
/-! Reset and the order of steps (70_reset_and_hazards.md): what a reset leaves (R210, R211), which steps change an
operand or a result register (R217, R220), and when a command ends (R224, R225). -/

namespace Sys2Proof.Machine

variable {s t : State} {j : Job}

/-! ### Reset -/

/-- CFG holds NW in its low half, which every legal NW fits (10_state.md R25). -/
theorem State.LegalConfig.cfgWord_eq (h : s.LegalConfig) : s.cfgWord = BitVec.ofNat 32 s.nw := by
  obtain ⟨-, hmax⟩ := h.nw_bounds
  apply BitVec.eq_of_toNat_eq
  have hhalf : s.nw % 2 ^ 16 = s.nw := Nat.mod_eq_of_lt (by omega)
  have hword : s.nw % 2 ^ 32 = s.nw := Nat.mod_eq_of_lt (by omega)
  rw [State.cfgWord, BitVec.toNat_append, BitVec.toNat_ofNat, BitVec.toNat_ofNat, BitVec.toNat_ofNat, hhalf, hword]
  simp

theorem resetBlock_ctrlWord (s : State) : s.resetBlock.ctrlWord = 0 :=
  ctrlWord_eq_ite s.resetBlock

theorem resetBlock_statusWord (s : State) : s.resetBlock.statusWord = 0 := by
  simp [State.statusWord]

theorem step_of_reset (hc : s.chosen = .reset) : step s = .next s.advance.resetBlock := by
  rw [step, hc, agentStep]

/-- Settles O4. -/
theorem resetStepClearsTheBlock : Obligations.ResetStepClearsTheBlock := by
  intro s h hc
  have hcfg : s.advance.resetBlock.LegalConfig := h
  exact ⟨s.advance.resetBlock, step_of_reset hc, rfl, rfl, hcfg.cfgWord_eq, resetBlock_ctrlWord _,
    resetBlock_statusWord _, rfl, rfl⟩

/-- Settles O5: the initial state is what a reset makes of itself. -/
theorem resetStateHoldsTheResetValues : Obligations.ResetStateHoldsTheResetValues := by
  have hreset : State.reset = State.reset.resetBlock := rfl
  unfold Obligations.ResetStateHoldsTheResetValues
  rw [hreset]
  exact ⟨rfl, rfl, rfl, rfl, rfl, rfl, rfl, rfl, rfl, rfl, rfl, rfl, rfl, rfl, rfl, resetBlock_statusWord _⟩

/-! ### Which steps change an operand or a result register -/

theorem op_eq_iff : t.op = s.op ↔ t.opa = s.opa ∧ t.opb = s.opb ∧ t.opc = s.opc := by
  refine ⟨fun h => ⟨congrFun h .a, congrFun h .b, congrFun h .c⟩, fun ⟨ha, hb, hc⟩ => funext fun r => ?_⟩
  cases r
  exacts [ha, hb, hc]

theorem res_eq_iff : t.res = s.res ↔ t.res0 = s.res0 ∧ t.res1 = s.res1 ∧ t.res2 = s.res2 := by
  refine ⟨fun h => ⟨congrFun h .r0, congrFun h .r1, congrFun h .r2⟩, fun ⟨h0, h1, h2⟩ => funext fun r => ?_⟩
  cases r
  exacts [h0, h1, h2]

/-- A host step keeps what every write keeps, for a view of the state that shows nothing of the host. -/
theorem hostStep_keeps {α : Type} (view : State → α) (hwrite : ∀ off w, view (s.writeWord off w) = view s)
    (hview : ∀ (u : State) p r f, view { u with prog := p, seen := r, hostFault := f } = view u := by intros; rfl) :
    view s.hostStep = view s := by
  obtain e | ⟨off, -, e⟩ | ⟨off, rest, -, e | e⟩ | ⟨off, w, rest, -, -, -, e⟩ := s.hostStep_cases <;> rw [e]
  · exact hview s s.prog s.seen _
  · exact hview s s.prog _ s.hostFault
  · exact hview s rest _ s.hostFault
  · exact (hview (s.writeWord off w) rest (s.writeWord off w).seen (s.writeWord off w).hostFault).trans (hwrite off w)

/-- While a command runs the host can change IE and the flags DONE and OVR only, not an operand and not JOB
(20_memory.md R68 to R72). -/
theorem writeWord_op_and_job_of_busy (hb : s.busy = true) (off : Offset) (w : Word) :
    (s.writeWord off w).op = s.op ∧ (s.writeWord off w).job = s.job := by
  obtain e | ⟨-, e⟩ | ⟨-, e⟩ | ⟨-, e⟩ | ⟨hidle, -⟩ | ⟨hidle, -⟩ := s.writeWord_cases off w
  · simp [e]
  · simp [op_eq_iff, e]
  · simp [op_eq_iff, e]
  · simp [op_eq_iff, e]
  · simp [hb] at hidle
  · simp [hb] at hidle

theorem hostStep_op_of_busy (hb : s.busy = true) : s.hostStep.op = s.op :=
  hostStep_keeps State.op fun off w => (writeWord_op_and_job_of_busy hb off w).1

theorem hostStep_job_of_busy (hb : s.busy = true) : s.hostStep.job = s.job :=
  hostStep_keeps State.job fun off w => (writeWord_op_and_job_of_busy hb off w).2

/-- No write reaches a result register (20_memory.md R69). -/
theorem writeWord_res (s : State) (off : Offset) (w : Word) : (s.writeWord off w).res = s.res := by
  obtain e | ⟨-, e⟩ | ⟨-, e⟩ | ⟨-, e⟩ | ⟨-, -, e⟩ | ⟨-, r, i, -, e⟩ := s.writeWord_cases off w <;>
    simp [res_eq_iff, e]

theorem hostStep_res (s : State) : s.hostStep.res = s.res :=
  hostStep_keeps State.res (writeWord_res s)

theorem engineStep_op (h : engineStep s = .next t) : t.op = s.op := by
  obtain ⟨t', ht', ⟨-, rfl⟩ | ⟨-, hcases⟩⟩ := engineStep_cases s <;> cases ht'.symm.trans h
  · rfl
  obtain ⟨err, rs, rfl⟩ | ⟨err, rs, rfl⟩ | rfl | ⟨p, rfl⟩ := hcases <;> rfl

/-- A completion that changes a result records no error. -/
theorem complete_err_of_res_ne {err : ErrCode} {rs : Results} (h : (s.complete err rs).res ≠ s.res) :
    (s.complete err rs).err = 0 := by
  by_contra herr
  exact h (res_eq_iff.mpr (complete_keeps_results_of_error s herr))

/-- An engine step that changes a result ends the running command, and without an error. -/
theorem engineStep_of_res_ne (h : engineStep s = .next t) (hres : t.res ≠ s.res) :
    s.busy = true ∧ t.busy = false ∧ t.done = true ∧ t.err = 0 := by
  obtain ⟨t', ht', ⟨-, rfl⟩ | ⟨hb, hcases⟩⟩ := engineStep_cases s <;> cases ht'.symm.trans h
  · exact absurd rfl hres
  obtain ⟨err, rs, rfl⟩ | ⟨err, rs, rfl⟩ | rfl | ⟨p, rfl⟩ := hcases
  · exact ⟨hb, rfl, rfl, complete_err_of_res_ne hres⟩
  · exact ⟨hb, rfl, rfl, complete_err_of_res_ne (s := s.afterDraw) hres⟩
  · exact absurd rfl hres
  · exact absurd rfl hres

/-- Settles O55. -/
theorem operandsHoldWhileBusy : Obligations.OperandsHoldWhileBusy := by
  intro s t hb h hc
  rw [← op_eq_iff]
  obtain ⟨t', ht', ⟨-, rfl⟩ | ⟨-, he⟩ | ⟨hreset, -⟩⟩ := step_cases s <;> cases ht'.symm.trans h
  · exact hostStep_op_of_busy (s := s.advance) hb
  · exact engineStep_op (s := s.advance) he
  · exact absurd hreset hc

/-- Settles O56. -/
theorem resultsChangeOnlyAtSuccess : Obligations.ResultsChangeOnlyAtSuccess := by
  intro s t h hne
  have hres : t.res ≠ s.res := by rwa [Ne, res_eq_iff, not_and_or, not_and_or]
  obtain ⟨t', ht', ⟨-, rfl⟩ | ⟨hc, he⟩ | ⟨hc, -⟩⟩ := step_cases s <;> cases ht'.symm.trans h
  · exact absurd (hostStep_res s.advance) hres
  · exact .inr ⟨hc, engineStep_of_res_ne (s := s.advance) he hres⟩
  · exact .inl hc

/-! ### A step that does not sample ends the command -/

theorem samples_of_findPrime (hj : s.job = some j) (hd : decode j.word = .legal .findPrime) :
    s.samples = digitsOkP s.opw (s.uint .a) := by
  simp only [State.samples, hj, hd]

theorem samples_of_genKeys (hj : s.job = some j) (hd : decode j.word = .legal .genKeys) :
    s.samples = (decide (j.phase = .sampleQ) || digitsOkK s.opw (s.uint .a)) := by
  simp only [State.samples, hj, hd]

/-- Only FIND_PRIME and GEN_KEYS sample: any other word takes the last arm. -/
theorem samples_eq_false (hj : s.job = some j) (hf : decode j.word ≠ .legal .findPrime)
    (hg : decode j.word ≠ .legal .genKeys) : s.samples = false := by
  simp only [State.samples, hj]

/-- Outside SAMPLE_Q a GEN_KEYS looks for its first prime. -/
theorem execGenKeys_of_not_sampleQ (hj : s.job = some j) (hph : j.phase ≠ .sampleQ) :
    execGenKeys s = .next s.genKeysP := by
  simp [execGenKeys, State.savedPrime, hj, hph]

/-- A sampling command that does not sample refuses its digit count; every other command, and an illegal word, completes
in its one step (60_exceptions.md R185, R187). -/
theorem engineStep_completes_of_not_samples (hj : s.job = some j) (hs : s.samples = false) :
    ∃ t, engineStep s = .next t ∧ t.busy = false ∧ t.done = true := by
  cases hd : decode j.word with
  | illegal why => exact ⟨_, engineStep_of_illegal hj hd, rfl, rfl⟩
  | legal i =>
    rw [engineStep_of_legal hj hd]
    obtain ⟨t, ht, ⟨err, rs, rfl⟩ | ⟨rfl | rfl, -⟩⟩ := exec_cases i s
    · exact ⟨_, ht, rfl, rfl⟩
    · rw [samples_of_findPrime hj hd] at hs
      exact ⟨_, execFindPrime_of_digits_refused hs, rfl, rfl⟩
    · rw [samples_of_genKeys hj hd, Bool.or_eq_false_iff, decide_eq_false_iff_not] at hs
      obtain ⟨hph, hdig⟩ := hs
      rw [exec, execGenKeys_of_not_sampleQ hj hph, genKeysP_of_digits_refused hdig]
      exact ⟨_, rfl, rfl, rfl⟩

/-- Settles O50. -/
theorem execCommandsCompleteInOneStep : Obligations.ExecCommandsCompleteInOneStep := by
  intro s j hc hj hf hg
  rw [step_of_engine hc]
  exact engineStep_completes_of_not_samples (s := s.advance) hj (samples_eq_false (s := s.advance) hj hf hg)

/-! ### An accepted draw brings the command on -/

theorem keygenFinal_job (s : State) (p q : Nat) : (s.keygenFinal p q).job = none := by
  unfold State.keygenFinal
  dsimp only
  split <;> rfl

/-- An accepted draw ends the command, except that GEN_KEYS's first one moves it to SAMPLE_Q (40_prime.md R113,
42_keygen.md R160). -/
theorem engineStep_of_accepted (hj : s.job = some j) (hs : s.samples = true)
    (hacc : accept (s.candidate (s.uint .a)) = true) (h : engineStep s = .next t) :
    t.job = none ∨
      (j.phase ≠ .sampleQ ∧ t.job = some { j with phase := .sampleQ, psaved := s.candidate (s.uint .a) }) := by
  by_cases hf : decode j.word = .legal .findPrime
  · rw [samples_of_findPrime hj hf] at hs
    rw [engineStep_of_legal hj hf, exec, execFindPrime_of_digits_ok hs, if_pos hacc] at h
    cases h
    exact .inl rfl
  by_cases hg : decode j.word = .legal .genKeys
  · rw [engineStep_of_legal hj hg, exec] at h
    by_cases hph : j.phase = .sampleQ
    · rw [execGenKeys_of_sampleQ hj hph, genKeysQ_of_accepted hacc] at h
      cases h
      exact .inl (keygenFinal_job _ _ _)
    · have hdig : digitsOkK s.opw (s.uint .a) = true := by simpa [samples_of_genKeys hj hg, hph] using hs
      rw [execGenKeys_of_not_sampleQ hj hph, genKeysP_of_digits_ok hdig, if_pos hacc] at h
      cases h
      exact .inr ⟨hph, by simp [hj]⟩
  · simp [samples_eq_false hj hf hg] at hs

/-! ### Runs on which a command never ends -/

/-- What a running command keeps until it ends: its word, and SAMPLE_Q once it is in it. -/
def Job.Continues (j j' : Job) : Prop := j'.word = j.word ∧ (j.phase = .sampleQ → j'.phase = .sampleQ)

theorem step_continues (hj : s.job = some j) (h : step s = .next t) (hb : t.busy = true) :
    ∃ j', t.job = some j' ∧ j.Continues j' := by
  have hbusy : s.advance.busy = true := busy_eq_true_iff.mpr (by simp [hj])
  obtain ⟨t', ht', ⟨-, rfl⟩ | ⟨-, he⟩ | ⟨-, rfl⟩⟩ := step_cases s <;> cases ht'.symm.trans h
  · exact ⟨j, (hostStep_job_of_busy hbusy).trans hj, rfl, id⟩
  · obtain rfl | ⟨p, rfl⟩ := engineStep_running hbusy he hb
    · exact ⟨j, hj, rfl, id⟩
    · exact ⟨{ j with phase := .sampleQ, psaved := p }, by simp [hj], rfl, fun _ => rfl⟩
  · cases hb

section Runs

/-! The lemmas of this section suppose that some command runs in every state from `n` on. -/

variable {σ : Nat → State} {n k : Nat} (hrun : IsRun σ) (hbusy : ∀ m, n ≤ m → (σ m).busy = true)

include hrun

theorem engineStep_of_run (hc : (σ k).chosen = .engine) : engineStep (σ k).advance = .next (σ (k + 1)) :=
  (step_of_engine hc).symm.trans (hrun k)

include hbusy

theorem run_continues (hj : (σ n).job = some j) (hk : n ≤ k) : ∃ j', (σ k).job = some j' ∧ j.Continues j' := by
  induction k, hk using Nat.le_induction with
  | base => exact ⟨j, hj, rfl, id⟩
  | succ k hk ih =>
    obtain ⟨j₁, hj₁, hword₁, hphase₁⟩ := ih
    obtain ⟨j₂, hj₂, hword₂, hphase₂⟩ := step_continues hj₁ (hrun k) (hbusy (k + 1) (by omega))
    exact ⟨j₂, hj₂, hword₂.trans hword₁, hphase₂ ∘ hphase₁⟩

theorem samples_of_engine_chosen (hk : n ≤ k) (hc : (σ k).chosen = .engine) : (σ k).samples = true := by
  by_contra hs
  obtain ⟨j, hj⟩ := Option.isSome_iff_exists.mp (hbusy k hk)
  obtain ⟨t, ht, hidle, -⟩ :=
    engineStep_completes_of_not_samples (s := (σ k).advance) hj (Bool.eq_false_iff.mpr hs)
  cases ht.symm.trans (engineStep_of_run hrun hc)
  simp [hbusy (k + 1) (by omega)] at hidle

/-- Its accepted draw is GEN_KEYS's first one. -/
theorem sampleQ_of_accepted (hk : n ≤ k) (hc : (σ k).chosen = .engine) (hs : (σ k).samples = true)
    (hacc : accept ((σ k).candidate ((σ k).uint .a)) = true) (hj : (σ k).job = some j) :
    j.phase ≠ .sampleQ ∧ ∃ j', (σ (k + 1)).job = some j' ∧ j'.phase = .sampleQ := by
  obtain hidle | ⟨hph, hj'⟩ :=
    engineStep_of_accepted (s := (σ k).advance) hj hs hacc (engineStep_of_run hrun hc)
  · exact absurd hidle (busy_eq_true_iff.mp (hbusy (k + 1) (by omega)))
  · exact ⟨hph, _, hj', rfl⟩

theorem exists_accepted (hfair : EngineFair σ) (hent : EntropyFair σ) :
    ∃ k, n ≤ k ∧ (σ k).chosen = .engine ∧ (σ k).samples = true ∧
      accept ((σ k).candidate ((σ k).uint .a)) = true := by
  refine hent n fun m => ?_
  obtain ⟨k, hk, hc⟩ := hfair n hbusy (max n m)
  exact ⟨k, le_of_max_le_right hk, hc, samples_of_engine_chosen hrun hbusy (le_of_max_le_left hk) hc⟩

/-- The engine would take a step, which only a sampling command survives. -/
theorem sampling_of_engineFair (hfair : EngineFair σ) (hj : (σ n).job = some j) :
    decode j.word = .legal .findPrime ∨ decode j.word = .legal .genKeys := by
  by_contra hd
  obtain ⟨hf, hg⟩ := not_or.mp hd
  obtain ⟨k, hk, hc⟩ := hfair n hbusy n
  obtain ⟨j', hj', hword, -⟩ := run_continues hrun hbusy hj hk
  have hsamples := samples_of_engine_chosen hrun hbusy hk hc
  rw [samples_eq_false hj' (hword ▸ hf) (hword ▸ hg)] at hsamples
  cases hsamples

/-- The first accepted draw would leave GEN_KEYS in SAMPLE_Q, and the second one would end it there. -/
theorem false_of_entropyFair (hfair : EngineFair σ) (hent : EntropyFair σ) : False := by
  obtain ⟨k, hk, hc, hs, hacc⟩ := exists_accepted hrun hbusy hfair hent
  obtain ⟨j, hj⟩ := Option.isSome_iff_exists.mp (hbusy k hk)
  obtain ⟨-, j₁, hj₁, hph₁⟩ := sampleQ_of_accepted hrun hbusy hk hc hs hacc hj
  have hbusy₁ : ∀ m, k + 1 ≤ m → (σ m).busy = true := fun m hm => hbusy m (by omega)
  obtain ⟨k₂, hk₂, hc₂, hs₂, hacc₂⟩ := exists_accepted hrun hbusy₁ hfair hent
  obtain ⟨j₂, hj₂, -, hph₂⟩ := run_continues hrun hbusy₁ hj₁ hk₂
  obtain ⟨hne, -⟩ := sampleQ_of_accepted hrun hbusy₁ hk₂ hc₂ hs₂ hacc₂ hj₂
  exact hne (hph₂ hph₁)

end Runs

theorem exists_idle_iff {σ : Nat → State} {n : Nat} :
    (∃ m, n ≤ m ∧ (σ m).busy = false) ↔ ¬ ∀ m, n ≤ m → (σ m).busy = true := by
  simp

/-- Settles O60: a command that never ended would be a sampling one, and its accepted draws would run out. -/
theorem fairRunsEndEveryCommand : Obligations.FairRunsEndEveryCommand := by
  intro σ hrun hfair n j hj
  simp only [exists_idle_iff]
  exact ⟨fun hf hg hbusy => (sampling_of_engineFair hrun hbusy hfair hj).elim hf hg,
    fun hent hbusy => false_of_entropyFair hrun hbusy hfair hent⟩

end Sys2Proof.Machine
end
